-- ==== Sys2Proof/Word.lean ====
section
/-! DEFINITION. The data of the datapath: bytes, 16-byte blocks, 4-byte words (00_scope.md R6, R7; 10_state.md R25). -/

namespace Sys2Proof

/-- A byte: an unsigned 8-bit value, bit 7 the most significant (R6). -/
abbrev Byte := BitVec 8

/-- A 16-byte array, byte 0 first (R7, R9). -/
abbrev Block := Vector Byte 16

/-- A word of the key schedule: four bytes at consecutive addresses and nothing more (R25, R55). -/
abbrev KeyWord := Vector Byte 4

/-- The block of sixteen zero bytes. -/
def zeroBlock : Block := #v[0, 0, 0, 0, 0, 0, 0, 0, 0, 0, 0, 0, 0, 0, 0, 0]

/-- Byte-wise exclusive-or of two arrays of one length (R6, R55). -/
def xorBytes {n : Nat} (a b : Vector Byte n) : Vector Byte n :=
  Vector.ofFn fun i => a[i] ^^^ b[i]

end Sys2Proof
end

