-- ==== Sys2Proof/Config.lean ====
section
/-! DEFINITION. The fixed parameters of the block (00_scope.md R5). The spec leaves no value of a result open, so there
is no free value here. The open parameters PLATFORM_ATTACH and CYCLES_PER_UOP concern the wrapper and time, on which no
rule depends (DESIGN CHOICE, log 9); the number of instances is the length of a Machine/Chip.lean list. -/

namespace Sys2Proof.Config

/-- `BLOCK_BYTES` and `KEY_BYTES` as the 8-bit length fields carry them (R5, R86, R201). -/
def requiredLength : Byte := 16

/-- `ROUNDS` (R5): the largest legal round-key number (R85). -/
def rounds : Nat := 10

/-- `RK_BYTES` (R5): the addresses of `RK` are 0 to 175 (R50). -/
def rkBytes : Nat := 176

/-- The reducing byte (R5, R111): `x^8` is replaced by `x^4 + x^3 + x + 1`. -/
def reducingByte : Byte := 0x1B

/-- `GMUL_ITER` (R5, R113). -/
def gmulIter : Nat := 8

/-- `UROM_WORDS` (R5). -/
def uromWords : Nat := 128

end Sys2Proof.Config
end

