-- ==== Sys2Proof/Syntax.lean ====
section
/-! DEFINITION. The twelve instructions of spec/opcode_table.json and the two formats they are presented in
(30_encoding.md R80, R81, R84, R87, R88). -/

namespace Sys2Proof

/-- One constructor per row of the opcode table: ten micro-ops, two host commands (R87, R88). -/
inductive Instr where
  /-- `LDS`, word 0x10 (R175). -/
  | lds
  /-- `KEXP`, word 0x20 (R156). -/
  | kexp
  /-- `ARK r`, words 0x30 to 0x3A; `rnd` is the only operand inside a micro-op word (R85, R150). -/
  | ark (rnd : BitVec 4)
  /-- `SUB`, word 0x40 (R124). -/
  | sub
  /-- `SHR`, word 0x50 (R131). -/
  | shr
  /-- `MIX`, word 0x60 (R141). -/
  | mix
  /-- `OUT`, word 0x70 (R176). -/
  | out
  /-- `ISUB`, word 0xC0 (R125). -/
  | isub
  /-- `ISHR`, word 0xD0 (R132). -/
  | ishr
  /-- `IMIX`, word 0xE0 (R143). -/
  | imix
  /-- `ENCRYPT`, `req_op = 0`, with the other fields of the request (R81, R82). -/
  | encrypt (dataLen keyLen : Byte) (data key : Block)
  /-- `DECRYPT`, `req_op = 1`, with the other fields of the request (R81, R82). -/
  | decrypt (dataLen keyLen : Byte) (data key : Block)
  deriving DecidableEq, Repr

/-- Format `CMD`: the request ports that are sampled together (R81). The two 128-bit ports carry 16 byte lanes each. -/
structure Cmd where
  op : BitVec 1
  dataLen : Byte
  keyLen : Byte
  data : BitVec 128
  key : BitVec 128
  deriving DecidableEq, Repr

/-- What an instruction looks like from outside: a micro-op word of `UROM`, or a request on the ports (R80). -/
inductive Encoded where
  | uop (word : Byte)
  | cmd (request : Cmd)
  deriving DecidableEq, Repr

end Sys2Proof
end

