-- ==== Sys2Proof/WellFormed.lean ====
section
/-! DEFINITION. Which instructions the encodings of 30_encoding.md can express: the only check is that a round-key
number is at most 10 (R85, R89). Every command is well formed, whatever its lengths: a wrong length is an error the
command reports, not an ill-formed command (R90). -/

namespace Sys2Proof

/-- The operand check of R85. -/
def Instr.wf : Instr → Bool
  | .ark rnd => decide (rnd.toNat ≤ Config.rounds)
  | .lds | .kexp | .sub | .shr | .mix | .out | .isub | .ishr | .imix => true
  | .encrypt _ _ _ _ | .decrypt _ _ _ _ => true

/-- The two commands of the host (R82, R189); the other ten are micro-ops (R87). -/
def Instr.isCommand : Instr → Bool
  | .encrypt _ _ _ _ | .decrypt _ _ _ _ => true
  | .lds | .kexp | .ark _ | .sub | .shr | .mix | .out | .isub | .ishr | .imix => false

/-- The three inverse transforms, whose words have bit 7 set (R84). -/
def Instr.isInverse : Instr → Bool
  | .isub | .ishr | .imix => true
  | .lds | .kexp | .ark _ | .sub | .shr | .mix | .out => false
  | .encrypt _ _ _ _ | .decrypt _ _ _ _ => false

end Sys2Proof
end

