-- ==== Sys2Proof/Decode.lean ====
section
/-! DEFINITION. The decoder and the encoder of 30_encoding.md: micro-op words (R84, R87, R89), requests (R81, R82) and
the byte lanes of the 128-bit ports (20_memory.md R54). -/

namespace Sys2Proof

/-- Why a micro-op word is illegal: the three cases of R89. -/
inductive Reject where
  /-- `opc` is 0x0, 0x8, 0x9, 0xA, 0xB or 0xF. -/
  | illegalOpc (opc : BitVec 4)
  /-- `opc` is 0x3 and `rnd` is 11 to 15. -/
  | roundTooLarge (rnd : BitVec 4)
  /-- `opc` is another legal value and `rnd` is not 0. -/
  | operandNotZero (opc rnd : BitVec 4)
  deriving DecidableEq, Repr

/-- Bits 7:4 of a micro-op word (R84). -/
def uopOpc (w : Byte) : BitVec 4 := w.extractLsb' 4 4

/-- Bits 3:0 of a micro-op word (R84). -/
def uopRnd (w : Byte) : BitVec 4 := w.extractLsb' 0 4

/-- A micro-op without operand: its `rnd` field must be 0 (R84, R89). -/
def decodePlain (i : Instr) (w : Byte) : Except Reject Instr :=
  if uopRnd w = 0 then .ok i else .error (.operandNotZero (uopOpc w) (uopRnd w))

/-- `ARK r`: its `rnd` field is the round-key number, 0 to 10 (R85, R89). -/
def decodeArk (w : Byte) : Except Reject Instr :=
  if (uopRnd w).toNat ≤ Config.rounds then .ok (.ark (uopRnd w)) else .error (.roundTooLarge (uopRnd w))

/-- The opcode map of R87: "A word is decoded by `opc` first, then `rnd` is checked." -/
def decodeUop (w : Byte) : Except Reject Instr :=
  match (uopOpc w).toNat with
  | 0x1 => decodePlain .lds w
  | 0x2 => decodePlain .kexp w
  | 0x3 => decodeArk w
  | 0x4 => decodePlain .sub w
  | 0x5 => decodePlain .shr w
  | 0x6 => decodePlain .mix w
  | 0x7 => decodePlain .out w
  | 0xC => decodePlain .isub w
  | 0xD => decodePlain .ishr w
  | 0xE => decodePlain .imix w
  | _ => .error (.illegalOpc (uopOpc w))

/-- Byte lane `i` of a 128-bit port: bits `127 - 8*i` down to `120 - 8*i` (R54). -/
def lane (p : BitVec 128) (i : Nat) : Byte := p.extractLsb' (120 - 8 * i) 8

/-- The 16 byte lanes of a 128-bit port as an array, lane 0 first (R54, R81). -/
def unpackLanes (p : BitVec 128) : Block := Vector.ofFn fun i => lane p i.val

/-- The 128-bit port value that carries a block: byte 0 in the most significant place (R54). -/
def packLanes (b : Block) : BitVec 128 :=
  b[0] ++ b[1] ++ b[2] ++ b[3] ++ b[4] ++ b[5] ++ b[6] ++ b[7] ++
    b[8] ++ b[9] ++ b[10] ++ b[11] ++ b[12] ++ b[13] ++ b[14] ++ b[15]

/-- The command a request selects: `req_op` 0 is `ENCRYPT`, 1 is `DECRYPT`, and there is no other code (R82). -/
def decodeCmd (c : Cmd) : Instr :=
  if c.op = 0 then .encrypt c.dataLen c.keyLen (unpackLanes c.data) (unpackLanes c.key)
  else .decrypt c.dataLen c.keyLen (unpackLanes c.data) (unpackLanes c.key)

/-- The decoder of both formats. -/
def decode : Encoded → Except Reject Instr
  | .uop w => decodeUop w
  | .cmd c => .ok (decodeCmd c)

/-- A micro-op word: `opc` in bits 7:4, `rnd` in bits 3:0 (R84). -/
def uopWord (opc rnd : BitVec 4) : Byte := opc ++ rnd

/-- The encoder, from the same tables (R82, R87). -/
def encode : Instr → Encoded
  | .lds => .uop (uopWord 0x1 0)
  | .kexp => .uop (uopWord 0x2 0)
  | .ark rnd => .uop (uopWord 0x3 rnd)
  | .sub => .uop (uopWord 0x4 0)
  | .shr => .uop (uopWord 0x5 0)
  | .mix => .uop (uopWord 0x6 0)
  | .out => .uop (uopWord 0x7 0)
  | .isub => .uop (uopWord 0xC 0)
  | .ishr => .uop (uopWord 0xD 0)
  | .imix => .uop (uopWord 0xE 0)
  | .encrypt dataLen keyLen data key => .cmd ⟨0, dataLen, keyLen, packLanes data, packLanes key⟩
  | .decrypt dataLen keyLen data key => .cmd ⟨1, dataLen, keyLen, packLanes data, packLanes key⟩

/-- A row of format CMD in the opcode table's numbering: bit 0 is `req_op`, and every other port of the request is
zero because the table gives it no bit (DESIGN CHOICE, log 4). -/
def cmdTableWord (w : Nat) : Option Instr :=
  if w < 2 then some (decodeCmd ⟨BitVec.ofNat 1 w, 0, 0, 0, 0⟩) else none

/-- The instruction read from a table word. A row of format UOP is one 8-bit word. A row of format CMD is the 1-bit
`req_op`, whose two values are illegal as micro-op words, so the two formats never meet (R87, R97; log 4). -/
def decodeTableWord (nbits w : Nat) : Option Instr :=
  if nbits ≤ 1 then cmdTableWord w
  else if w < 256 then
    match decodeUop (BitVec.ofNat 8 w) with
    | .ok i => some i
    | .error _ => cmdTableWord w
  else none

end Sys2Proof
end

