-- ==== Sys2Proof/Machine/State.lean ====
section
/-! DEFINITION. The state of one CORE: exactly the table of 10_state.md R20 with the written marks of R37, and one field
of the model's own, the port samples to come (log 3). Plain data throughout. -/

namespace Sys2Proof.Machine

/-- The two model faults of 60_exceptions.md R200. The state a fault stops in is not final and gives no response. -/
inductive Fault where
  /-- Raised by the micro-op step on an illegal word, and by `ARK r` with `r` above 10 (R89, R150, R206). Safe: the
  hardware as specified never executes such a word. -/
  | illegalUop
  /-- Raised by a micro-op that reads a byte of `S`, `K`, `DIN` or `RK` that nothing has written since reset (R37,
  R207). Safe: the micro-programs of the hardware write before they read. -/
  | unwrittenRead
  deriving DecidableEq, Repr

/-- Why a step could have no meaning. Every instruction is modelled, so no step raises it. -/
inductive Refusal where
  /-- Raised by an arm of `exec` whose instruction has no meaning yet; no arm does. Safe. -/
  | notModelled (mnemonic : String)
  deriving DecidableEq, Repr

/-- A 16-byte data register with its written mark (R21 to R24, R37). The bytes always hold a value; the operation that
reads them, `Store.read`, gives it only when the mark is true. -/
structure Store where
  written : Bool
  bytes : Block
  deriving DecidableEq, Repr

/-- A byte memory: the written addresses and their bytes, addresses strictly rising. An unlisted address holds no value,
which is the unwritten mark of that byte (R37; DESIGN CHOICE, log 2). -/
abbrev Memory := List Host.Cell

/-- One sample of the input ports, but for `clk`, which plays no part in any rule (R35, R243). -/
structure Ports where
  rst : Bool
  reqValid : Bool
  cmd : Cmd
  deriving DecidableEq, Repr

/-- The ports at rest: no reset, no request (DESIGN CHOICE, log 3). -/
def restPorts : Ports := ⟨false, false, ⟨0, 0, 0, 0, 0⟩⟩

/-- The state of R20, under the spec's own names. -/
structure State where
  /-- The working state (R21). -/
  S : Store
  /-- The cipher key of the current invocation (R22). -/
  K : Store
  /-- The input block of the current invocation (R23). -/
  DIN : Store
  /-- The output block of the last successful invocation (R24). -/
  DOUT : Store
  /-- The round-key material, addresses 0 to 175 (R26, R50, R51). -/
  RK : Memory
  /-- The command being executed: 0 `ENCRYPT`, 1 `DECRYPT` (R31). -/
  OP : BitVec 1
  /-- The micro-program counter (R27). -/
  UPC : BitVec 7
  /-- A command is being executed (R28). -/
  BUSY : Bool
  /-- `RSP_STATUS` (and `DOUT`, if it is OK) hold the response to the last request (R29). -/
  RSP_VALID : Bool
  /-- 0 `OK`, 1 `InvalidLength`, 2 `AllocationFailure`, 3 reserved (R30). -/
  RSP_STATUS : BitVec 2
  /-- The model's own field: what the input ports show at the steps to come, next step first; the empty list is ports
  at rest (log 3). -/
  inputs : List Ports
  deriving DecidableEq, Repr

/-- A data register nothing has written since reset (R37, R40; the bytes are DESIGN CHOICE, log 1). -/
def Store.fresh : Store := ⟨false, zeroBlock⟩

/-- The state right after reset (R40): idle, no response, every data store unwritten. -/
def State.reset : State where
  S := Store.fresh
  K := Store.fresh
  DIN := Store.fresh
  DOUT := Store.fresh
  RK := []
  OP := 0
  UPC := 0
  BUSY := false
  RSP_VALID := false
  RSP_STATUS := 0
  inputs := []

end Sys2Proof.Machine
end

