-- ==== Sys2Proof/Machine/Flags.lean ====
section
/-! DEFINITION. Every computation of a flag or a control register: BUSY, RSP_VALID, RSP_STATUS, OP and UPC
(10_state.md R27 to R31). There is no arithmetic flag (40_gf_arithmetic.md R114). -/

namespace Sys2Proof.Machine

/-- Status code `OK` (R30). -/
def statusOk : BitVec 2 := 0

/-- Status code `InvalidLength` (R30, R200). -/
def statusInvalidLength : BitVec 2 := 1

/-- "Every micro-op but `OUT` advances it by 1" (R27). The register has 7 bits (DEDUCED, log 6). -/
def State.nextUpc (s : State) : State := { s with UPC := s.UPC + 1 }

/-- An accepted command: `BUSY` set, `RSP_VALID` cleared, `OP` and `UPC` loaded; `RSP_STATUS` is not written (R171). -/
def State.markRunning (s : State) (op : BitVec 1) (start : BitVec 7) : State :=
  { s with OP := op, UPC := start, BUSY := true, RSP_VALID := false }

/-- The end of a run: status OK, `RSP_VALID` set, `BUSY` cleared, `UPC` as it was (R176). -/
def State.markDone (s : State) : State :=
  { s with RSP_STATUS := statusOk, RSP_VALID := true, BUSY := false }

/-- An error report: the status and `RSP_VALID`, nothing else (R202). -/
def State.markError (s : State) (status : BitVec 2) : State :=
  { s with RSP_STATUS := status, RSP_VALID := true }

/-- The five control registers after reset (R231). -/
def State.clearControl (s : State) : State :=
  { s with BUSY := false, RSP_VALID := false, RSP_STATUS := 0, OP := 0, UPC := 0 }

end Sys2Proof.Machine
end

