-- ==== Sys2Proof/Machine/Operands.lean ====
section
/-! DEFINITION. Every operand form: the round-key number of a micro-op word, the fields of a request and the start
address they select (30_encoding.md R85, R86; 10_state.md R27). All other operands are implicit. -/

namespace Sys2Proof.Machine

/-- The round-key number is used as it stands: the address in `RK` is `16 * rnd` (R85, R150). -/
def roundKeyAddr (rnd : BitVec 4) : Nat := 16 * rnd.toNat

/-- "Legal values are 0 to 10" (R85). -/
def legalRound (rnd : BitVec 4) : Bool := decide (rnd.toNat ≤ Config.rounds)

/-- Both length fields are compared for equality with 16 and nothing else is done with them (R86, R201). -/
def lengthsOk (dataLen keyLen : Byte) : Bool :=
  decide (dataLen = Config.requiredLength ∧ keyLen = Config.requiredLength)

/-- The start value of `UPC`: `{OP, 000000}` (R27, R171). -/
def startAddr (op : BitVec 1) : BitVec 7 := op ++ (0 : BitVec 6)

end Sys2Proof.Machine
end

