-- ==== Sys2Proof/Machine/Ops.lean ====
section
/-! DEFINITION. The named operations over the round-key store and the data registers, the error entry, the reset and the
sampling of the ports. -/

namespace Sys2Proof.Machine

/-- What a meaning answers. -/
abbrev Result := Host.Outcome State Fault Refusal

/-- The byte at an address, if one has been written (R37, R61). -/
def Memory.read : Memory → Nat → Option Byte
  | [], _ => none
  | (a, b) :: m, x => if a = x then some b else Memory.read m x

/-- Write one byte, keeping the addresses in rising order (R61). -/
def Memory.write : Memory → Nat → Byte → Memory
  | [], x, v => [(x, v)]
  | (a, b) :: m, x, v =>
    if x < a then (x, v) :: (a, b) :: m
    else if a = x then (x, v) :: m
    else (a, b) :: Memory.write m x v

/-- Write bytes at consecutive addresses. -/
def Memory.writeList (m : Memory) (a : Nat) : List Byte → Memory
  | [] => m
  | b :: bs => Memory.writeList (m.write a b) (a + 1) bs

/-- `MemWrite(RK, a, n, v)` (R10). -/
def Memory.writeVec {n : Nat} (m : Memory) (a : Nat) (v : Vector Byte n) : Memory :=
  m.writeList a v.toList

/-- The `n` addresses from `a` on have all been written. -/
def Memory.covers (m : Memory) (a n : Nat) : Bool :=
  (List.range n).all fun i => (m.read (a + i)).isSome

/-- `MemRead(RK, a, n)` (R10): the array at `a`, lowest address first, if every byte of it has been written (R37). -/
def Memory.readVec (m : Memory) (a n : Nat) : Option (Vector Byte n) :=
  if m.covers a n then some (Vector.ofFn fun i => (m.read (a + i.val)).getD 0) else none

/-- Each address is above `low` and below the next, and the last is below the end of `RK`. -/
def Memory.wfAbove : Nat → Memory → Bool
  | _, [] => true
  | low, (a, _) :: m => decide (low ≤ a) && decide (a < Config.rkBytes) && Memory.wfAbove (a + 1) m

/-- The canonical form: addresses strictly rising and inside 0 to 175 (R50, R58). No value is what an unlisted address
reads as, so every listed byte belongs. -/
def Memory.wf (m : Memory) : Bool := Memory.wfAbove 0 m

/-- The value of a data register, if its mark is true (R37). -/
def Store.read (r : Store) : Option Block := if r.written then some r.bytes else none

/-- A data register is written whole, which sets its mark (R21, R37). -/
def Store.put (b : Block) : Store := ⟨true, b⟩

/-- The mark goes back to unwritten; the storage itself is not written (R231). -/
def Store.forget (r : Store) : Store := ⟨false, r.bytes⟩

/-- Write `S` whole (R21). -/
def State.writeS (s : State) (b : Block) : State := { s with S := Store.put b }

/-- Write `DOUT` whole (R24). -/
def State.writeDOUT (s : State) (b : Block) : State := { s with DOUT := Store.put b }

/-- Write `RK` (R26). -/
def State.writeRK (s : State) (m : Memory) : State := { s with RK := m }

/-- The copies an accept step takes of the request's lanes (R22, R23, R171). -/
def State.writeRequest (s : State) (data key : Block) : State :=
  { s with DIN := Store.put data, K := Store.put key }

/-- A micro-op that replaces the working state by a function of it and goes on to the next word. All right-hand sides
read the old `S` (R8); reading it unwritten is the fault that R124, R131, R132, R141, R143 and R150 name (R37, R207). -/
def transform (f : Block → Block) (s : State) : Result :=
  match s.S.read with
  | some b => .next (s.writeS (f b)).nextUpc
  | none => .fault .unwrittenRead

/-- Entering the one error of this hardware, `InvalidLength` (R202, R210): the status and `RSP_VALID` are written,
nothing is saved, no register of the command is touched. There is nothing to return from (R211): the next step finds
the controller idle as before. -/
def raiseInvalidLength (s : State) : State := s.markError statusInvalidLength

/-- The two accept steps (R171, R202), and a request while a command runs, which has no effect (R173; DEDUCED, log 8).
`S`, `RK` and their marks are kept (R41; DESIGN CHOICE, log 5). -/
def acceptRequest (op : BitVec 1) (dataLen keyLen : Byte) (data key : Block) (s : State) : Result :=
  if s.BUSY then .next s
  else if lengthsOk dataLen keyLen then
    .next ((s.writeRequest data key).markRunning op (startAddr op))
  else .next (raiseInvalidLength s)

/-- The reset step (R231): the five control registers, and every data store marked unwritten (DESIGN CHOICE, log 10). -/
def resetStep (s : State) : State :=
  { s.clearControl with
    S := s.S.forget, K := s.K.forget, DIN := s.DIN.forget, DOUT := s.DOUT.forget, RK := [] }

/-- What the ports show at this step (R35; DESIGN CHOICE, log 3). -/
def State.sample (s : State) : Ports := s.inputs.headD restPorts

/-- The sample is used up (log 3). -/
def State.advance (s : State) : State := { s with inputs := s.inputs.tail }

end Sys2Proof.Machine
end

