-- ==== Sys2Proof/Machine/AddRoundKey.lean ====
section
/-! DEFINITION. Key addition: ARK (44_add_round_key.md R150). -/

namespace Sys2Proof.Machine

/-- `ARK r` (R150): a round-key number above 10 is an illegal word; the 16 bytes of round key `r` are read at `16*r`
and added to `S` lane by lane; `RK` is not written. An unwritten byte of `S` or of the round key is the fault R150 names
(R37, R207). -/
def execArk (rnd : BitVec 4) (s : State) : Result :=
  if legalRound rnd then
    match s.RK.readVec (roundKeyAddr rnd) 16 with
    | some k => transform (fun b => xorBytes b k) s
    | none => .fault .unwrittenRead
  else .fault .illegalUop

end Sys2Proof.Machine
end

