-- ==== Sys2Proof/Machine/Driver.lean ====
section
/-! DEFINITION. The block cipher driver's own instructions: LDS, OUT and the two commands (46_cipher_controller.md R171,
R172, R175, R176; 60_exceptions.md R202). -/

namespace Sys2Proof.Machine

/-- `LDS` (R175): `S` takes `DIN`, which keeps its value; an unwritten `DIN` is the fault R175 names (R37, R207). -/
def execLds (s : State) : Result :=
  match s.DIN.read with
  | some b => .next (s.writeS b).nextUpc
  | none => .fault .unwrittenRead

/-- `OUT` (R176): `DOUT` takes `S`, and the run ends; `UPC` is not changed. An unwritten `S` is the fault R176 names (R37,
R207). -/
def execOut (s : State) : Result :=
  match s.S.read with
  | some b => .next (s.writeDOUT b).markDone
  | none => .fault .unwrittenRead

/-- `ENCRYPT` presented to the controller (R171, R173, R202): the micro-program at 0x00 follows. -/
def execEncrypt (dataLen keyLen : Byte) (data key : Block) (s : State) : Result :=
  acceptRequest 0 dataLen keyLen data key s

/-- `DECRYPT` presented to the controller (R171, R173, R202): the micro-program at 0x40 follows. -/
def execDecrypt (dataLen keyLen : Byte) (data key : Block) (s : State) : Result :=
  acceptRequest 1 dataLen keyLen data key s

end Sys2Proof.Machine
end

