-- ==== Sys2Proof/Machine/KeySchedule.lean ====
section
/-! DEFINITION. The key-schedule expander: KEXP (45_key_schedule.md R155 to R160), and the schedule as a function of the
key by the word recurrence of R157. -/

namespace Sys2Proof.Machine

/-- "Left rotation by one byte" (R158). -/
def rotWord (w : KeyWord) : KeyWord := #v[w[1], w[2], w[3], w[0]]

/-- Each byte of a word through the forward S-box (R159). -/
def subWord (w : KeyWord) : KeyWord := #v[sboxAt w[0], sboxAt w[1], sboxAt w[2], sboxAt w[3]]

/-- The round constant into the first byte; rounds count from 1 (R155, R156). -/
def addRcon (w : KeyWord) (round : Nat) : KeyWord := #v[w[0] ^^^ rconAt (round - 1), w[1], w[2], w[3]]

/-- The special step at the start of a round key: rotate, substitute, add the constant (R156; `g` of R157). -/
def scheduleCore (w : KeyWord) (round : Nat) : KeyWord := addRcon (subWord (rotWord w)) round

/-- One position `p` of the loop of R156: it reads words the loop has written before. -/
def kexpWord (rk : Memory) (p : Nat) : Option Memory :=
  match rk.readVec (p - 4) 4, rk.readVec (p - 16) 4 with
  | some prev, some old =>
    some (rk.writeVec p (xorBytes old (if p % 16 = 0 then scheduleCore prev (p / 16) else prev)))
  | _, _ => none

/-- The positions in order: 16, 20, ..., 172 (R156). -/
def kexpPositions : List Nat := (List.range 40).map fun k => 16 + 4 * k

/-- The sequential loop of R156 over a list of positions. -/
def kexpLoop : List Nat → Memory → Option Memory
  | [], rk => some rk
  | p :: ps, rk =>
    match kexpWord rk p with
    | some rk' => kexpLoop ps rk'
    | none => none

/-- `KEXP` (R156): the key into the first 16 bytes, then the loop. An unwritten `K` is the fault R156 names (R37, R207); the
loop reads only what it has written itself. -/
def execKexp (s : State) : Result :=
  match s.K.read with
  | some key =>
    match kexpLoop kexpPositions (s.RK.writeVec 0 key) with
    | some rk => .next (s.writeRK rk).nextUpc
    | none => .fault .unwrittenRead
  | none => .fault .unwrittenRead

/-- Four consecutive words `W_n, W_(n+1), W_(n+2), W_(n+3)` of the schedule of a key (R157). -/
def scheduleWindow (key : Block) : Nat → KeyWord × KeyWord × KeyWord × KeyWord
  | 0 =>
    (#v[key[0], key[1], key[2], key[3]], #v[key[4], key[5], key[6], key[7]],
     #v[key[8], key[9], key[10], key[11]], #v[key[12], key[13], key[14], key[15]])
  | n + 1 =>
    match scheduleWindow key n with
    | (a, b, c, d) =>
      (b, c, d, xorBytes a (if (n + 4) % 4 = 0 then scheduleCore d ((n + 4) / 4) else d))

/-- Word `W_w` of the schedule of a key (R157). -/
def scheduleWord (key : Block) (w : Nat) : KeyWord := (scheduleWindow key w).1

/-- Round key `r`: the words `4*r` to `4*r + 3` (R51). -/
def roundKey (key : Block) (r : Nat) : Block :=
  Vector.ofFn fun i => (scheduleWord key (4 * r + i.val / 4))[i.val % 4]

end Sys2Proof.Machine
end

