-- ==== Sys2Proof/Machine/Gf.lean ====
section
/-! DEFINITION. Galois-field arithmetic on bytes (40_gf_arithmetic.md R110 to R115): pure functions, no state, no fault. -/

namespace Sys2Proof.Machine

/-- Multiplication by `x`: shift left, and add the reducing byte if the bit shifted out was set (R112). -/
def xtime (a : Byte) : Byte :=
  if a.getLsbD 7 then (a <<< 1) ^^^ Config.reducingByte else a <<< 1

/-- The loop of R113 after `n` iterations are left: accumulator, multiplicand, multiplier. -/
def gmulLoop : Nat → Byte → Byte → Byte → Byte
  | 0, acc, _, _ => acc
  | n + 1, acc, a, b => gmulLoop n (if b.getLsbD 0 then acc ^^^ a else acc) (xtime a) (b >>> 1)

/-- Multiplication of two field elements, 8 iterations (R113). -/
def gmul (a b : Byte) : Byte := gmulLoop Config.gmulIter 0 a b

end Sys2Proof.Machine
end

