-- ==== Sys2Proof/Machine/MixColumns.lean ====
section
/-! DEFINITION. Column mixing: MIX and IMIX (43_mix_columns.md R140, R141, R143). -/

namespace Sys2Proof.Machine

/-- Column `c`: the four contiguous bytes from `4*c` on (R7, R140). -/
def column (b : Block) (c : Fin 4) : KeyWord :=
  #v[b[4 * c.val], b[4 * c.val + 1], b[4 * c.val + 2], b[4 * c.val + 3]]

/-- A block whose columns are those of `b`, each put through `f`; the columns do not interact (R140). -/
def mapColumns (f : KeyWord → KeyWord) (b : Block) : Block :=
  Vector.ofFn fun i => (f (column b ⟨i.val / 4, by omega⟩))[i.val % 4]

/-- One column of MixColumns (R141): every `a` is the old byte. -/
def mixColumn (a : KeyWord) : KeyWord :=
  let t := a[0] ^^^ a[1] ^^^ a[2] ^^^ a[3]
  #v[a[0] ^^^ t ^^^ xtime (a[0] ^^^ a[1]),
     a[1] ^^^ t ^^^ xtime (a[1] ^^^ a[2]),
     a[2] ^^^ t ^^^ xtime (a[2] ^^^ a[3]),
     a[3] ^^^ t ^^^ xtime (a[3] ^^^ a[0])]

/-- One column of InvMixColumns (R143). -/
def invMixColumn (a : KeyWord) : KeyWord :=
  #v[gmul 0x0E a[0] ^^^ gmul 0x0B a[1] ^^^ gmul 0x0D a[2] ^^^ gmul 0x09 a[3],
     gmul 0x09 a[0] ^^^ gmul 0x0E a[1] ^^^ gmul 0x0B a[2] ^^^ gmul 0x0D a[3],
     gmul 0x0D a[0] ^^^ gmul 0x09 a[1] ^^^ gmul 0x0E a[2] ^^^ gmul 0x0B a[3],
     gmul 0x0B a[0] ^^^ gmul 0x0D a[1] ^^^ gmul 0x09 a[2] ^^^ gmul 0x0E a[3]]

/-- MixColumns (R141). -/
def mixColumns (b : Block) : Block := mapColumns mixColumn b

/-- InvMixColumns (R143). -/
def invMixColumns (b : Block) : Block := mapColumns invMixColumn b

/-- `MIX` (R141). -/
def execMix (s : State) : Result := transform mixColumns s

/-- `IMIX` (R143). -/
def execImix (s : State) : Result := transform invMixColumns s

end Sys2Proof.Machine
end

