-- ==== Sys2Proof/Machine/ShiftRows.lean ====
section
/-! DEFINITION. Row shifting: SHR and ISHR (42_shift_rows.md R130 to R132). Byte `i` sits at row `i mod 4`, column
`i div 4` (00_scope.md R7). -/

namespace Sys2Proof.Machine

/-- Row `r` shifted left by `r`: the new byte in column `c` is the old one in column `(c + r) mod 4` (R131). -/
def shiftRows (b : Block) : Block :=
  Vector.ofFn fun i => b[4 * ((i.val / 4 + i.val % 4) % 4) + i.val % 4]

/-- Row `r` shifted right by `r`: the new byte in column `c` is the old one in column `(c - r) mod 4` (R132, with the
correction of 90_conflicts.md C1). -/
def invShiftRows (b : Block) : Block :=
  Vector.ofFn fun i => b[4 * ((i.val / 4 + 4 - i.val % 4) % 4) + i.val % 4]

/-- `SHR` (R131). -/
def execShr (s : State) : Result := transform shiftRows s

/-- `ISHR` (R132). -/
def execIshr (s : State) : Result := transform invShiftRows s

end Sys2Proof.Machine
end

