-- ==== Sys2Proof/Machine/Substitution.lean ====
section
/-! DEFINITION. The substitution engine: SUB and ISUB (41_sbox_substitution.md R124, R125). -/

namespace Sys2Proof.Machine

/-- Each of the 16 bytes replaced by its `SBOX` entry (R124). -/
def subBytes (b : Block) : Block := Vector.ofFn fun i => sboxAt b[i]

/-- Each of the 16 bytes replaced by its `INV_SBOX` entry (R125). -/
def invSubBytes (b : Block) : Block := Vector.ofFn fun i => invSboxAt b[i]

/-- `SUB` (R124). -/
def execSub (s : State) : Result := transform subBytes s

/-- `ISUB` (R125). -/
def execIsub (s : State) : Result := transform invSubBytes s

end Sys2Proof.Machine
end

