-- ==== Sys2Proof/Machine/Dispatch.lean ====
section
/-! DEFINITION. The meaning of each instruction: one arm per constructor, one direct call of its own meaning. -/

namespace Sys2Proof.Machine

def exec (i : Instr) (s : State) : Host.Outcome State Fault Refusal :=
  match i with
  | .lds => Sys2Proof.Machine.execLds s
  | .kexp => Sys2Proof.Machine.execKexp s
  | .ark rnd => Sys2Proof.Machine.execArk rnd s
  | .sub => Sys2Proof.Machine.execSub s
  | .shr => Sys2Proof.Machine.execShr s
  | .mix => Sys2Proof.Machine.execMix s
  | .out => Sys2Proof.Machine.execOut s
  | .isub => Sys2Proof.Machine.execIsub s
  | .ishr => Sys2Proof.Machine.execIshr s
  | .imix => Sys2Proof.Machine.execImix s
  | .encrypt dataLen keyLen data key => Sys2Proof.Machine.execEncrypt dataLen keyLen data key s
  | .decrypt dataLen keyLen data key => Sys2Proof.Machine.execDecrypt dataLen keyLen data key s

end Sys2Proof.Machine
end

