-- ==== Sys2Proof/Machine/Controller.lean ====
section
/-! DEFINITION. The controller: the fetch, the micro-op step and the order of checks at a step (46_cipher_controller.md
R170 to R174, 60_exceptions.md R209). The micro-program ROM is a parameter, as R33 says; the hardware's own is
`uromImage`. -/

namespace Sys2Proof.Machine

/-- The fetch of one 8-bit word (R56, R174). -/
def fetch (rom : List Byte) (upc : BitVec 7) : Byte := rom.getD upc.toNat 0

/-- The micro-op step (R174): fetch, decode, execute; an illegal word is the fault of R206. -/
def microStep (rom : List Byte) (s : State) : Result :=
  match decodeUop (fetch rom s.UPC) with
  | .ok i => exec i s
  | .error _ => .fault .illegalUop

/-- One step (R209): first `rst`, then `BUSY`, then `req_valid`; with none of the three nothing happens (R233). The
step uses up one sample of the ports (log 3). -/
def stepWith (rom : List Byte) (s : State) : Result :=
  if s.sample.rst then .next (resetStep s.advance)
  else if s.BUSY then microStep rom s.advance
  else if s.sample.reqValid then exec (decodeCmd s.sample.cmd) s.advance
  else .next s.advance

/-- An address of the hardware's `UROM` that holds a word; an unused address, whose word is illegal, for a word that
`UROM` does not hold (R177 to R179). -/
def uromAddressOf (w : Byte) : BitVec 7 :=
  if uromImage.findIdx (fun x => x == w) < Config.uromWords then
    BitVec.ofNat 7 (uromImage.findIdx (fun x => x == w))
  else 0x2B

/-- A command in progress about to fetch at an address of `UROM`: running, no reset at the next step, and the data
stores written, as they are whenever a micro-op of a run executes (R37; DESIGN CHOICE, log 7). -/
def State.aboutToFetch (s : State) (addr : BitVec 7) : State :=
  { s with
    S := Store.put s.S.bytes, K := Store.put s.K.bytes, DIN := Store.put s.DIN.bytes,
    RK := if s.RK.covers 0 Config.rkBytes then s.RK
          else (List.range Config.rkBytes).map fun a => (a, 0),
    UPC := addr, BUSY := true, inputs := restPorts :: s.inputs }

/-- An idle controller whose ports show a request at the next step (DESIGN CHOICE, log 7). -/
def State.aboutToAccept (s : State) (c : Cmd) : State :=
  { s with BUSY := false, inputs := ⟨false, true, c⟩ :: s.inputs }

end Sys2Proof.Machine
end

