-- ==== Sys2Proof/Machine/Step.lean ====
section
/-! DEFINITION. The step of the hardware, whose micro-program ROM is fixed, and the placing of one instruction where the
next step finds it. -/

namespace Sys2Proof.Machine

/-- One step of one CORE. -/
def step (s : State) : Host.Outcome State Fault Refusal := stepWith uromImage s

/-- `s` with the instruction of a table word where `step` takes its next one: a micro-op word at the address of `UROM`
that holds it, a request on the ports; a word that is no instruction at an unused, illegal address (log 7). -/
def State.withFetchWord (s : State) (nbits w : Nat) : State :=
  match decodeTableWord nbits w with
  | some i =>
    match encode i with
    | .uop word => s.aboutToFetch (uromAddressOf word)
    | .cmd c => s.aboutToAccept c
  | none => s.aboutToFetch 0x2B

end Sys2Proof.Machine
end

