-- ==== Sys2Proof/Machine/Outputs.lean ====
section
/-! DEFINITION. What the host sees and what it sends: the output ports as functions of the state, the response as a
value, and a host's buffers as a request (10_state.md R36; 30_encoding.md R81, R83, R96; 60_exceptions.md R204). -/

namespace Sys2Proof.Machine

/-- The output ports of R36. -/
structure OutputPorts where
  reqReady : Bool
  rspValid : Bool
  rspStatus : BitVec 2
  rspData : BitVec 128
  deriving DecidableEq, Repr

/-- The gating of R36: the lanes carry `DOUT` only beside a valid OK response, and are all 0x00 otherwise; the
written mark of `DOUT` plays no part (DEDUCED, log 11). -/
def rspDataOf (s : State) : BitVec 128 :=
  if s.RSP_VALID && decide (s.RSP_STATUS = statusOk) then packLanes s.DOUT.bytes else 0

/-- "Each is a function of the state and nothing else" (R36). -/
def outputsOf (s : State) : OutputPorts := ⟨!s.BUSY, s.RSP_VALID, s.RSP_STATUS, rspDataOf s⟩

/-- The names of the status codes other than OK (R30). -/
inductive ErrorName where
  | invalidLength
  | allocationFailure
  | reserved
  deriving DecidableEq, Repr

/-- A response: a whole block, or an error with no data field (R83, R204). -/
inductive Response where
  | ok (data : Block)
  | err (name : ErrorName)
  deriving DecidableEq, Repr

/-- The response on the ports, if there is one: nothing while `RSP_VALID = 0` (93 U10, R83). -/
def responseOf (s : State) : Option Response :=
  if s.RSP_VALID then
    match s.RSP_STATUS.toNat with
    | 0 => some (.ok s.DOUT.bytes)
    | 1 => some (.err .invalidLength)
    | 2 => some (.err .allocationFailure)
    | _ => some (.err .reserved)
  else none

/-- The length field of a buffer: its byte count, any count above 255 saturating to 255 (R81, D2; DESIGN CHOICE, log 15). -/
def lengthField (buffer : List Byte) : Byte := BitVec.ofNat 8 (min buffer.length 255)

/-- The lanes of a buffer: its bytes when there are 16 of them; otherwise the lanes are not examined (R96, R202). -/
def bufferLanes (buffer : List Byte) : BitVec 128 := packLanes (Vector.ofFn fun i => buffer.getD i.val 0)

/-- A host's two buffers as a request (R81, R96). -/
def requestOf (op : BitVec 1) (data key : List Byte) : Cmd :=
  ⟨op, lengthField data, lengthField key, bufferLanes data, bufferLanes key⟩

end Sys2Proof.Machine
end

