-- ==== Sys2Proof/Machine/Assembler.lean ====
section
/-! DEFINITION. The written forms of 30_encoding.md: micro-op lines (R93), the four pseudo-instructions (R95), host
lines (R96), and the round and phase view of the micro-program counter (46_cipher_controller.md R185). Text is a list
of characters (DESIGN CHOICE, log 13). -/

namespace Sys2Proof.Machine

/-- The mnemonic of R87 and R88, in upper case. -/
def mnemonicText : Instr → List Char
  | .lds => ['L', 'D', 'S']
  | .kexp => ['K', 'E', 'X', 'P']
  | .ark _ => ['A', 'R', 'K']
  | .sub => ['S', 'U', 'B']
  | .shr => ['S', 'H', 'R']
  | .mix => ['M', 'I', 'X']
  | .out => ['O', 'U', 'T']
  | .isub => ['I', 'S', 'U', 'B']
  | .ishr => ['I', 'S', 'H', 'R']
  | .imix => ['I', 'M', 'I', 'X']
  | .encrypt _ _ _ _ => ['E', 'N', 'C', 'R', 'Y', 'P', 'T']
  | .decrypt _ _ _ _ => ['D', 'E', 'C', 'R', 'Y', 'P', 'T']

/-- A round number in decimal, 0 to 15 (R93). -/
def decimalText (n : Nat) : List Char :=
  if n < 10 then [Char.ofNat (48 + n)] else ['1', Char.ofNat (38 + n)]

/-- A micro-op line: the mnemonic, and for `ARK` a space and the round number (R93). -/
def uopText (i : Instr) : List Char :=
  match i with
  | .ark rnd => mnemonicText i ++ [' '] ++ decimalText rnd.toNat
  | .lds | .kexp | .sub | .shr | .mix | .out | .isub | .ishr | .imix => mnemonicText i
  | .encrypt _ _ _ _ | .decrypt _ _ _ _ => mnemonicText i

/-- The two digits of a byte in a hex string, lower case (R9, R96). -/
def hexDigit (n : Nat) : Char := if n < 10 then Char.ofNat (48 + n) else Char.ofNat (87 + n)

/-- A byte array as a hex string: two digits a byte, byte 0 first (R9). -/
def hexText (bytes : List Byte) : List Char :=
  bytes.flatMap fun b => [hexDigit (b.toNat / 16), hexDigit (b.toNat % 16)]

/-- A hex digit of an address or word in a listing, upper case (R93). -/
def listingDigit (n : Nat) : Char := if n < 10 then Char.ofNat (48 + n) else Char.ofNat (55 + n)

/-- A listing line with its address and word, as `0x06: 0x31  ARK 1` (R93). -/
def listingText (addr : BitVec 7) (word : Byte) (i : Instr) : List Char :=
  ['0', 'x', listingDigit (addr.toNat / 16), listingDigit (addr.toNat % 16), ':', ' ',
   '0', 'x', listingDigit (word.toNat / 16), listingDigit (word.toNat % 16), ' ', ' '] ++ uopText i

/-- How a host line begins: the command name and `data=` (R96). -/
def hostPrefix (op : BitVec 1) : List Char :=
  (if op = 0 then ['E', 'N', 'C', 'R', 'Y', 'P', 'T'] else ['D', 'E', 'C', 'R', 'Y', 'P', 'T']) ++
    [' ', 'd', 'a', 't', 'a', '=']

/-- A host line: the command name, `data=` and `key=` with the bytes of the two buffers (R96). -/
def hostText (op : BitVec 1) (data key : List Byte) : List Char :=
  hostPrefix op ++ hexText data ++ [' ', 'k', 'e', 'y', '='] ++ hexText key

/-- A response line: `OK` and the 32 digits, or `ERR` and the name of the error (R96). -/
def responseText : Response → List Char
  | .ok data => ['O', 'K', ' '] ++ hexText data.toList
  | .err .invalidLength =>
    ['E', 'R', 'R', ' '] ++ ['I', 'n', 'v', 'a', 'l', 'i', 'd', 'L', 'e', 'n', 'g', 't', 'h']
  | .err .allocationFailure =>
    ['E', 'R', 'R', ' '] ++ ['A', 'l', 'l', 'o', 'c', 'a', 't', 'i', 'o', 'n', 'F', 'a', 'i', 'l', 'u', 'r', 'e']
  | .err .reserved => ['E', 'R', 'R', ' '] ++ ['r', 'e', 's', 'e', 'r', 'v', 'e', 'd']

/-- The micro-ops that a word can carry (R87). -/
def legalUops : List Instr :=
  [.lds, .kexp, .ark 0, .ark 1, .ark 2, .ark 3, .ark 4, .ark 5, .ark 6, .ark 7, .ark 8, .ark 9, .ark 10,
   .sub, .shr, .mix, .out, .isub, .ishr, .imix]

/-- A line without its comment, its outer spaces and the address and word of a listing (R93). -/
def bareLine (line : List Char) : List Char :=
  let body := (line.takeWhile fun ch => ch != ';').dropWhile fun ch => ch == ' '
  let body := if body.take 2 = ['0', 'x'] then body.drop 12 else body
  (body.reverse.dropWhile fun ch => ch == ' ').reverse

/-- The micro-op a line of a listing names (R93). -/
def parseUop (line : List Char) : Option Instr :=
  legalUops.find? fun i => uopText i == bareLine line

/-- The value of a hex digit, in either case (R9). -/
def hexValue (ch : Char) : Option Nat :=
  let n := ch.toNat
  if 48 ≤ n ∧ n ≤ 57 then some (n - 48)
  else if 97 ≤ n ∧ n ≤ 102 then some (n - 87)
  else if 65 ≤ n ∧ n ≤ 70 then some (n - 55)
  else none

/-- The bytes of a hex string of any even number of digits (R9, R96). -/
def parseHex : List Char → Option (List Byte)
  | [] => some []
  | [_] => none
  | hi :: lo :: rest =>
    match hexValue hi, hexValue lo, parseHex rest with
    | some h, some l, some bytes => some (BitVec.ofNat 8 (16 * h + l) :: bytes)
    | _, _, _ => none

/-- A text without the one it must begin with. -/
def afterPrefix : List Char → List Char → Option (List Char)
  | [], text => some text
  | _ :: _, [] => none
  | p :: ps, ch :: text => if p = ch then afterPrefix ps text else none

/-- The two hex strings of a host line, as a request (R96). -/
def parseBuffers (op : BitVec 1) (text : List Char) : Option Cmd :=
  match afterPrefix [' ', 'k', 'e', 'y', '='] (text.dropWhile fun ch => ch != ' '),
    parseHex (text.takeWhile fun ch => ch != ' ') with
  | some keyText, some data =>
    match parseHex keyText with
    | some key => some (requestOf op data key)
    | none => none
  | _, _ => none

/-- The request a host line stands for (R96). -/
def parseHost (line : List Char) : Option Cmd :=
  match afterPrefix (hostPrefix 0) line, afterPrefix (hostPrefix 1) line with
  | some text, _ => parseBuffers 0 text
  | none, some text => parseBuffers 1 text
  | none, none => none

/-- `ROUND r`: SUB, SHR, MIX, ARK r (R95). -/
def roundOps (r : Nat) : List Instr := [.sub, .shr, .mix, .ark (BitVec.ofNat 4 r)]

/-- `FINAL`: SUB, SHR, ARK 10 (R95). -/
def finalOps : List Instr := [.sub, .shr, .ark 10]

/-- `IROUND r`: ISHR, ISUB, ARK r, IMIX (R95). -/
def iroundOps (r : Nat) : List Instr := [.ishr, .isub, .ark (BitVec.ofNat 4 r), .imix]

/-- `IFINAL`: ISHR, ISUB, ARK 0 (R95). -/
def ifinalOps : List Instr := [.ishr, .isub, .ark 0]

/-- The encryption program in its short form (R95, R177). -/
def encryptListing : List Instr :=
  [.lds, .kexp, .ark 0] ++ [1, 2, 3, 4, 5, 6, 7, 8, 9].flatMap roundOps ++ finalOps ++ [.out]

/-- The decryption program in its short form (R95, R178). -/
def decryptListing : List Instr :=
  [.lds, .kexp, .ark 10] ++ [9, 8, 7, 6, 5, 4, 3, 2, 1].flatMap iroundOps ++ ifinalOps ++ [.out]

/-- The micro-op at phase `p` of encryption round `r` (R185). -/
def encryptPhase (r p : Nat) : Option Instr := (roundOps r)[p]?

/-- The micro-op at phase `p` of decryption round `r` (R185). -/
def decryptPhase (r p : Nat) : Option Instr := (iroundOps r)[p]?

/-- The micro-op a round counter and a phase counter in place of `UPC` would select (R185): the rounds of an encryption
at 0x03 to 0x26 and its final round after them, the rounds of a decryption at 0x43 to 0x66 and its final step. -/
def roundPhaseInstr (upc : Nat) : Option Instr :=
  if 0x03 ≤ upc ∧ upc ≤ 0x26 then encryptPhase ((upc - 3) / 4 + 1) ((upc - 3) % 4)
  else if 0x27 ≤ upc ∧ upc ≤ 0x29 then finalOps[upc - 0x27]?
  else if 0x43 ≤ upc ∧ upc ≤ 0x66 then decryptPhase (9 - (upc - 0x43) / 4) ((upc - 0x43) % 4)
  else if 0x67 ≤ upc ∧ upc ≤ 0x69 then ifinalOps[upc - 0x67]?
  else none

end Sys2Proof.Machine
end

