-- ==== Sys2Proof/Machine/Chip.lean ====
section
/-! DEFINITION. Several instances on one chip (20_memory.md R68; 60_exceptions.md R219): each has all the state of R20 to
itself, the ROMs are shared because they are constants, and nothing else is. -/

namespace Sys2Proof.Machine

/-- The instances of a chip, in no particular order of importance; they have no identifiers of their own (R219). -/
abbrev Chip := List State

/-- A chip right after reset: each instance leaves reset idle (R219). -/
def chipReset (n : Nat) : Chip := List.replicate n State.reset

/-- Instance `k` takes a step; a chip without an instance `k` does nothing (DESIGN CHOICE, log 14). -/
def chipStep (chip : Chip) (k : Nat) : Host.Outcome Chip Fault Refusal :=
  match chip[k]? with
  | some s =>
    match step s with
    | .next t => .next (chip.set k t)
    | .fault f => .fault f
    | .refused r => .refused r
  | none => .next chip

end Sys2Proof.Machine
end

