-- ==== Sys2Proof/Machine/Cipher.lean ====
section
/-! DEFINITION. The two commands as functions, the command level of 00_scope.md R12 (46_cipher_controller.md R180, R181,
R190). -/

namespace Sys2Proof.Machine

/-- One of the rounds 1 to 9 of `Encrypt`: SUB, SHR, MIX, ARK (R180). -/
def encryptRound (key : Block) (s : Block) (r : Nat) : Block :=
  xorBytes (mixColumns (shiftRows (subBytes s))) (roundKey key r)

/-- `Encrypt(P, Key)` (R180): the final round has no MixColumns. -/
def encryptBlock (p key : Block) : Block :=
  xorBytes
    (shiftRows (subBytes
      ([1, 2, 3, 4, 5, 6, 7, 8, 9].foldl (encryptRound key) (xorBytes p (roundKey key 0)))))
    (roundKey key 10)

/-- One of the rounds 9 to 1 of `Decrypt`: ISHR, ISUB, ARK, IMIX, with the unmodified round key (R145, R181). -/
def decryptRound (key : Block) (s : Block) (r : Nat) : Block :=
  invMixColumns (xorBytes (invSubBytes (invShiftRows s)) (roundKey key r))

/-- `Decrypt(C, Key)` (R181): the same key schedule, read in the opposite order. -/
def decryptBlock (c key : Block) : Block :=
  xorBytes
    (invSubBytes (invShiftRows
      ([9, 8, 7, 6, 5, 4, 3, 2, 1].foldl (decryptRound key) (xorBytes c (roundKey key 10)))))
    (roundKey key 0)

/-- The response a request gets, a function of its fields alone (R190, R201). -/
def respond (c : Cmd) : Response :=
  if c.dataLen = Config.requiredLength ∧ c.keyLen = Config.requiredLength then
    if c.op = 0 then .ok (encryptBlock (unpackLanes c.data) (unpackLanes c.key))
    else .ok (decryptBlock (unpackLanes c.data) (unpackLanes c.key))
  else .err .invalidLength

end Sys2Proof.Machine
end

