-- ==== Sys2Proof/Safety.lean ====
section
/-! DEFINITION. Runs, and what holds in every state of a run: the invariant that keeps the two model faults of
60_exceptions.md R206 and R207 away. -/

namespace Sys2Proof.Machine

/-- `k` steps, stopping at the first that answers no next state. -/
def run : Nat → State → Result
  | 0, s => .next s
  | k + 1, s =>
    match step s with
    | .next t => run k t
    | .fault f => .fault f
    | .refused r => .refused r

/-- Instructions executed one after another, stopping at the first that answers no next state. -/
def execSeq : List Instr → State → Result
  | [], s => .next s
  | i :: is, s =>
    match exec i s with
    | .next t => execSeq is t
    | .fault f => .fault f
    | .refused r => .refused r

/-- What the ports show at the `i`-th step from now (log 3). -/
def State.sampleAt (s : State) (i : Nat) : Ports := s.inputs.getD i restPorts

/-- The host does not reset the block in the next `k` steps. -/
def State.quiet (s : State) (k : Nat) : Prop := ∀ i, i < k → (s.sampleAt i).rst = false

/-- How many micro-ops of the command in progress have been executed (R27, R184). -/
def State.offset (s : State) : Nat := s.UPC.toNat - (startAddr s.OP).toNat

/-- A command in progress (R37, R184): `UPC` is inside the program `OP` selects, no response is shown, and every store
is written before the micro-op that reads it. -/
structure State.InRun (s : State) : Prop where
  silent : s.RSP_VALID = false
  fromStart : (startAddr s.OP).toNat ≤ s.UPC.toNat
  toOut : s.UPC.toNat ≤ (startAddr s.OP).toNat + 42
  din : s.DIN.written = true
  key : s.K.written = true
  working : 1 ≤ s.offset → s.S.written = true
  schedule : 2 ≤ s.offset → s.RK.covers 0 Config.rkBytes = true

/-- The states a run can be in: the round-key store in its canonical form, a status the block produces (R30), a result
behind every OK response (R37), and a running controller in the middle of a command. -/
structure State.Inv (s : State) : Prop where
  memory : s.RK.wf = true
  status : s.RSP_STATUS = statusOk ∨ s.RSP_STATUS = statusInvalidLength
  result : s.RSP_VALID = true → s.RSP_STATUS = statusOk → s.DOUT.written = true
  running : s.BUSY = true → s.InRun

end Sys2Proof.Machine
end

