-- ==== Sys2Proof/Certificates/Slice0/Obligations.lean ====
section
/-! DEFINITION. The statements for the provers. Each says which rule of spec/ it formalises. -/

open Sys2Proof Sys2Proof.Machine

/-! ### Encodings -/

/-- R81, R82, R84, R85, R87: no bit of an encoding is dropped. -/
def Obligations.DecodeEncodeRoundTrip : Prop :=
  ∀ i : Instr, i.wf = true → decode (encode i) = .ok i

/-- R54, R82, R84, R87, R89: each word and each request has one meaning, and a decoded instruction is well formed. -/
def Obligations.EncodeDecodeRoundTrip : Prop :=
  ∀ (e : Encoded) (i : Instr), decode e = .ok i → encode i = e ∧ i.wf = true

/-- R87: the opcode map, 20 legal words, the other 236 illegal. -/
def Obligations.UopWordsDecodeAsTabled : Prop :=
  decodeUop 0x10 = .ok .lds ∧ decodeUop 0x20 = .ok .kexp ∧
  decodeUop 0x30 = .ok (.ark 0) ∧ decodeUop 0x31 = .ok (.ark 1) ∧ decodeUop 0x32 = .ok (.ark 2) ∧
  decodeUop 0x33 = .ok (.ark 3) ∧ decodeUop 0x34 = .ok (.ark 4) ∧ decodeUop 0x35 = .ok (.ark 5) ∧
  decodeUop 0x36 = .ok (.ark 6) ∧ decodeUop 0x37 = .ok (.ark 7) ∧ decodeUop 0x38 = .ok (.ark 8) ∧
  decodeUop 0x39 = .ok (.ark 9) ∧ decodeUop 0x3A = .ok (.ark 10) ∧
  decodeUop 0x40 = .ok .sub ∧ decodeUop 0x50 = .ok .shr ∧ decodeUop 0x60 = .ok .mix ∧
  decodeUop 0x70 = .ok .out ∧ decodeUop 0xC0 = .ok .isub ∧ decodeUop 0xD0 = .ok .ishr ∧
  decodeUop 0xE0 = .ok .imix ∧
  ∀ w : Byte,
    w ∉ ([0x10, 0x20, 0x30, 0x31, 0x32, 0x33, 0x34, 0x35, 0x36, 0x37, 0x38, 0x39, 0x3A, 0x40, 0x50, 0x60,
          0x70, 0xC0, 0xD0, 0xE0] : List Byte) →
    ∃ e, decodeUop w = .error e

/-- R89: which words are illegal, that executing one is the fault IllegalUop with any ROM, that every word at the
addresses a run visits is legal, and that the unused words hold the illegal word 0x00. -/
def Obligations.IllegalWordsFault : Prop :=
  (∀ w : Byte, (∃ e, decodeUop w = .error e) ↔
    (uopOpc w ∈ ([0x0, 0x8, 0x9, 0xA, 0xB, 0xF] : List (BitVec 4)) ∨
      (uopOpc w = 0x3 ∧ 11 ≤ (uopRnd w).toNat) ∨
      (uopOpc w ∈ ([0x1, 0x2, 0x4, 0x5, 0x6, 0x7, 0xC, 0xD, 0xE] : List (BitVec 4)) ∧ uopRnd w ≠ 0))) ∧
  (∀ (rom : List Byte) (s : State), (∃ e, decodeUop (fetch rom s.UPC) = .error e) →
    microStep rom s = .fault .illegalUop) ∧
  (∀ a : Nat, a ≤ 0x2A ∨ (0x40 ≤ a ∧ a ≤ 0x6A) → ∃ i, decodeUop (uromImage.getD a 0) = .ok i) ∧
  (∀ a : Nat, (0x2B ≤ a ∧ a ≤ 0x3F) ∨ (0x6B ≤ a ∧ a ≤ 0x7F) → uromImage[a]? = some 0)

/-- R95, R177, R178, R179: the ROM holds the two listings, written with the pseudo-instructions, at 0x00 and 0x40. -/
def Obligations.RomHoldsTheListings : Prop :=
  uromImage.length = 128 ∧ encryptListing.length = 43 ∧ decryptListing.length = 43 ∧
  (∀ a : Nat, a < 43 → (decodeUop (uromImage.getD a 0)).toOption = encryptListing[a]?) ∧
  (∀ a : Nat, a < 43 → (decodeUop (uromImage.getD (0x40 + a) 0)).toOption = decryptListing[a]?)

/-- R185: the round and phase view selects the word `UROM` holds, at every address where the rule gives a round and a
phase or a final step. -/
def Obligations.RoundPhaseViewAgrees : Prop :=
  ∀ a : Nat, (0x03 ≤ a ∧ a ≤ 0x29) ∨ (0x43 ≤ a ∧ a ≤ 0x69) →
    (decodeUop (uromImage.getD a 0)).toOption = roundPhaseInstr a ∧ (roundPhaseInstr a).isSome = true

/-- R54: byte `i` of a buffer is bits `127 - 8*i` to `120 - 8*i` of a port, on the way in and on the way out. -/
def Obligations.PortLanesArePacked : Prop :=
  (∀ (b : Block) (i : Nat) (h : i < 16), (packLanes b).extractLsb' (120 - 8 * i) 8 = b[i]) ∧
  (∀ (p : BitVec 128) (i : Nat) (h : i < 16), (unpackLanes p)[i] = p.extractLsb' (120 - 8 * i) 8) ∧
  (∀ b : Block, unpackLanes (packLanes b) = b) ∧
  (∀ p : BitVec 128, packLanes (unpackLanes p) = p)

/-- R81, R96, R201: a host's buffers become a request by their byte counts; a buffer of 16 bytes is carried lane by
lane, and a buffer of any other length is refused with InvalidLength. -/
def Obligations.BuffersBecomeRequests : Prop :=
  (∀ (op : BitVec 1) (data key : Block),
    respond (requestOf op data.toList key.toList) =
      .ok (if op = 0 then encryptBlock data key else decryptBlock data key)) ∧
  (∀ (op : BitVec 1) (data key : List Byte), data.length ≠ 16 ∨ key.length ≠ 16 →
    respond (requestOf op data key) = .err .invalidLength)

/-- R93, R96: a micro-op line, also in a listing or with a comment, is read back as its micro-op, and a host line as the
request of its two buffers, of any lengths. -/
def Obligations.WrittenFormsAreReadBack : Prop :=
  (∀ i : Instr, i.wf = true → i.isCommand = false → parseUop (uopText i) = some i ∧
    (∀ (addr : BitVec 7) (word : Byte), parseUop (listingText addr word i) = some i) ∧
    (∀ comment : List Char, parseUop (uopText i ++ [' ', ';'] ++ comment) = some i)) ∧
  (∀ (op : BitVec 1) (data key : List Byte),
    parseHost (hostText op data key) = some (requestOf op data key))

/-! ### The step -/

/-- R174, R209: while a command runs, and with no reset, a step is the instruction at the micro-program counter, executed
on the state whose port sample has been used up; an illegal word is the fault IllegalUop. The ROM is a parameter of the
step (R33), and the hardware's own step is the one with its fixed ROM. -/
def Obligations.StepRunsDecodedMicroOp : Prop :=
  (∀ (rom : List Byte) (s : State) (i : Instr), s.sample.rst = false → s.BUSY = true →
    decodeUop (fetch rom s.UPC) = .ok i → i.wf = true ∧ stepWith rom s = exec i s.advance) ∧
  (∀ (s : State) (i : Instr), s.sample.rst = false → s.BUSY = true →
    decodeUop (fetch uromImage s.UPC) = .ok i → i.wf = true ∧ step s = exec i s.advance) ∧
  (∀ (s : State) (e : Reject), s.sample.rst = false → s.BUSY = true →
    decodeUop (fetch uromImage s.UPC) = .error e → step s = .fault .illegalUop)

/-- R170, R209, R233: an idle controller with no reset executes the request on its ports, if there is one, and does
nothing otherwise. -/
def Obligations.StepAcceptsRequestWhenIdle : Prop :=
  (∀ s : State, s.sample.rst = false → s.BUSY = false → s.sample.reqValid = true →
    step s = exec (decodeCmd s.sample.cmd) s.advance) ∧
  (∀ s : State, s.sample.rst = false → s.BUSY = false → s.sample.reqValid = false →
    step s = .next { s with inputs := s.inputs.tail })

/-- R231: the reset step, from every state: the control registers, the marks, the storage that is not written, the
outputs; and further reset steps change nothing. That the stored bytes stay behind the marks is the model's choice (log
10), and that a step uses up one port sample is the model's too (log 3). -/
def Obligations.ResetStepEffect : Prop :=
  ∀ s : State, s.sample.rst = true → ∃ t, step s = .next t ∧
    t.BUSY = false ∧ t.RSP_VALID = false ∧ t.RSP_STATUS = 0 ∧ t.OP = 0 ∧ t.UPC = 0 ∧
    t.S = ⟨false, s.S.bytes⟩ ∧ t.K = ⟨false, s.K.bytes⟩ ∧ t.DIN = ⟨false, s.DIN.bytes⟩ ∧
    t.DOUT = ⟨false, s.DOUT.bytes⟩ ∧ (∀ a, t.RK.read a = none) ∧
    outputsOf t = ⟨true, false, 0, 0⟩ ∧ t.inputs = s.inputs.tail ∧
    (t.sample.rst = true → step t = .next { t with inputs := t.inputs.tail })

/-- R40: the state after reset and what its ports show. -/
def Obligations.ResetStateValues : Prop :=
  State.reset.BUSY = false ∧ State.reset.RSP_VALID = false ∧ State.reset.RSP_STATUS = 0 ∧
  State.reset.OP = 0 ∧ State.reset.UPC = 0x00 ∧
  State.reset.S.written = false ∧ State.reset.K.written = false ∧ State.reset.DIN.written = false ∧
  State.reset.DOUT.written = false ∧ (∀ a, State.reset.RK.read a = none) ∧
  outputsOf State.reset = ⟨true, false, 0, 0⟩

/-- R232: a reset abandons the command: however long the host then sends no request, the controller is idle and shows no
response, whatever the state before the reset. -/
def Obligations.ResetAbandonsCommand : Prop :=
  ∀ (k : Nat) (s : State), s.sample.rst = true →
    (∀ i, 1 ≤ i → i ≤ k → (s.sampleAt i).reqValid = false) →
    ∃ t, run (k + 1) s = .next t ∧ t.BUSY = false ∧ responseOf t = none

/-- R173, R209, R232: while a command runs, and in a reset step, what the request ports show has no effect on the step;
and a request executed on a busy controller changes nothing. -/
def Obligations.BusyIgnoresRequest : Prop :=
  (∀ (s : State) (p q : Ports) (rest : List Ports), p.rst = q.rst → s.BUSY = true ∨ p.rst = true →
    step { s with inputs := p :: rest } = step { s with inputs := q :: rest }) ∧
  (∀ (s : State) (dl kl : Byte) (data key : Block), s.BUSY = true →
    (outputsOf s).reqReady = false ∧
    exec (.encrypt dl kl data key) s = .next s ∧ exec (.decrypt dl kl data key) s = .next s)

/-! ### The commands -/

/-- R171: both commands complete with valid lengths on an idle controller, and what they then write. -/
def Obligations.CommandsAcceptValidLengths : Prop :=
  ∀ (s : State) (data key : Block), s.BUSY = false →
    exec (.encrypt 16 16 data key) s =
      .next { s with DIN := ⟨true, data⟩, K := ⟨true, key⟩, OP := 0, UPC := 0x00, BUSY := true,
                     RSP_VALID := false } ∧
    exec (.decrypt 16 16 data key) s =
      .next { s with DIN := ⟨true, data⟩, K := ⟨true, key⟩, OP := 1, UPC := 0x40, BUSY := true,
                     RSP_VALID := false }

/-- R171: the accept step with valid lengths, from the ports: the lanes are copied, the program is selected, and nothing
else of the state is written; its port sample is used up (the model's choice, log 3). -/
def Obligations.AcceptStepValidLengths : Prop :=
  ∀ s : State, s.sample.rst = false → s.BUSY = false → s.sample.reqValid = true →
    s.sample.cmd.dataLen = 16 → s.sample.cmd.keyLen = 16 →
    ∃ data key : Block,
      (∀ i (_ : i < 16), data[i] = s.sample.cmd.data.extractLsb' (120 - 8 * i) 8) ∧
      (∀ i (_ : i < 16), key[i] = s.sample.cmd.key.extractLsb' (120 - 8 * i) 8) ∧
      step s = .next { s with
        DIN := ⟨true, data⟩, K := ⟨true, key⟩, OP := s.sample.cmd.op,
        UPC := s.sample.cmd.op ++ (0 : BitVec 6), BUSY := true, RSP_VALID := false,
        inputs := s.inputs.tail }

/-- R202: the accept step with a wrong length, from the ports: only the two report registers are written, the ports show
the error and no data, and the controller is ready; its port sample is used up (the model's choice, log 3). -/
def Obligations.AcceptStepInvalidLength : Prop :=
  ∀ s : State, s.sample.rst = false → s.BUSY = false → s.sample.reqValid = true →
    s.sample.cmd.dataLen ≠ 16 ∨ s.sample.cmd.keyLen ≠ 16 →
    ∃ t, step s = .next t ∧
      t = { s with RSP_STATUS := 1, RSP_VALID := true, inputs := s.inputs.tail } ∧
      outputsOf t = ⟨true, true, 1, 0⟩

/-- R201, R202, R203: either command with a wrong length on an idle controller writes the two report registers and
nothing else. -/
def Obligations.CommandsRefuseWrongLengths : Prop :=
  ∀ (s : State) (dl kl : Byte) (data key : Block), s.BUSY = false → dl ≠ 16 ∨ kl ≠ 16 →
    exec (.encrypt dl kl data key) s = .next { s with RSP_STATUS := 1, RSP_VALID := true } ∧
    exec (.decrypt dl kl data key) s = .next { s with RSP_STATUS := 1, RSP_VALID := true }

/-! ### The micro-ops: results, with everything else unchanged -/

/-- R175: LDS. -/
def Obligations.LdsCopiesInput : Prop :=
  decodeUop 0x10 = .ok .lds ∧
  ∀ s : State,
    (s.DIN.written = true → ∃ t, exec .lds s = .next t ∧
      t = { s with S := t.S, UPC := s.UPC + 1 } ∧ t.S.written = true ∧
      ∀ i (_ : i < 16), t.S.bytes[i] = s.DIN.bytes[i]) ∧
    (s.DIN.written = false → exec .lds s = .fault .unwrittenRead)

/-- R124: SUB. -/
def Obligations.SubSubstitutes : Prop :=
  decodeUop 0x40 = .ok .sub ∧
  ∀ s : State,
    (s.S.written = true → ∃ t, exec .sub s = .next t ∧
      t = { s with S := t.S, UPC := s.UPC + 1 } ∧ t.S.written = true ∧
      ∀ i (_ : i < 16), t.S.bytes[i] = sboxAt s.S.bytes[i] ∧ t.S.bytes[i] ≠ s.S.bytes[i]) ∧
    (s.S.written = false → exec .sub s = .fault .unwrittenRead)

/-- R125: ISUB. -/
def Obligations.IsubSubstitutes : Prop :=
  decodeUop 0xC0 = .ok .isub ∧
  ∀ s : State,
    (s.S.written = true → ∃ t, exec .isub s = .next t ∧
      t = { s with S := t.S, UPC := s.UPC + 1 } ∧ t.S.written = true ∧
      ∀ i (_ : i < 16), t.S.bytes[i] = invSboxAt s.S.bytes[i]) ∧
    (s.S.written = false → exec .isub s = .fault .unwrittenRead)

/-- R131: SHR shifts row `r` left by `r`. -/
def Obligations.ShrShiftsRowsLeft : Prop :=
  decodeUop 0x50 = .ok .shr ∧
  ∀ s : State,
    (s.S.written = true → ∃ t, exec .shr s = .next t ∧
      t = { s with S := t.S, UPC := s.UPC + 1 } ∧ t.S.written = true ∧
      ∀ c r (_ : c < 4) (_ : r < 4), t.S.bytes[4 * c + r] = s.S.bytes[4 * ((c + r) % 4) + r]) ∧
    (s.S.written = false → exec .shr s = .fault .unwrittenRead)

/-- R132: ISHR shifts row `r` right by `r`, row 3 by 3 (C1). -/
def Obligations.IshrShiftsRowsRight : Prop :=
  decodeUop 0xD0 = .ok .ishr ∧
  ∀ s : State,
    (s.S.written = true → ∃ t, exec .ishr s = .next t ∧
      t = { s with S := t.S, UPC := s.UPC + 1 } ∧ t.S.written = true ∧
      ∀ c r (_ : c < 4) (_ : r < 4), t.S.bytes[4 * ((c + r) % 4) + r] = s.S.bytes[4 * c + r]) ∧
    (s.S.written = false → exec .ishr s = .fault .unwrittenRead)

/-- R141: MIX, every `a` the old byte of the column. -/
def Obligations.MixMixesColumns : Prop :=
  decodeUop 0x60 = .ok .mix ∧
  ∀ s : State,
    (s.S.written = true → ∃ t, exec .mix s = .next t ∧
      t = { s with S := t.S, UPC := s.UPC + 1 } ∧ t.S.written = true ∧
      ∀ c (_ : c < 4), ∀ a0 a1 a2 a3 x : Byte,
        a0 = s.S.bytes[4 * c] → a1 = s.S.bytes[4 * c + 1] → a2 = s.S.bytes[4 * c + 2] →
        a3 = s.S.bytes[4 * c + 3] → x = a0 ^^^ a1 ^^^ a2 ^^^ a3 →
        t.S.bytes[4 * c] = a0 ^^^ x ^^^ xtime (a0 ^^^ a1) ∧
        t.S.bytes[4 * c + 1] = a1 ^^^ x ^^^ xtime (a1 ^^^ a2) ∧
        t.S.bytes[4 * c + 2] = a2 ^^^ x ^^^ xtime (a2 ^^^ a3) ∧
        t.S.bytes[4 * c + 3] = a3 ^^^ x ^^^ xtime (a3 ^^^ a0)) ∧
    (s.S.written = false → exec .mix s = .fault .unwrittenRead)

/-- R142: the matrix form of MIX. -/
def Obligations.MixIsTheMatrixProduct : Prop :=
  ∀ s : State, s.S.written = true → ∃ t, exec .mix s = .next t ∧
    ∀ c (_ : c < 4), ∀ a0 a1 a2 a3 : Byte,
      a0 = s.S.bytes[4 * c] → a1 = s.S.bytes[4 * c + 1] → a2 = s.S.bytes[4 * c + 2] →
      a3 = s.S.bytes[4 * c + 3] →
      t.S.bytes[4 * c] = gmul 2 a0 ^^^ gmul 3 a1 ^^^ a2 ^^^ a3 ∧
      t.S.bytes[4 * c + 1] = a0 ^^^ gmul 2 a1 ^^^ gmul 3 a2 ^^^ a3 ∧
      t.S.bytes[4 * c + 2] = a0 ^^^ a1 ^^^ gmul 2 a2 ^^^ gmul 3 a3 ∧
      t.S.bytes[4 * c + 3] = gmul 3 a0 ^^^ a1 ^^^ a2 ^^^ gmul 2 a3

/-- R143: IMIX. -/
def Obligations.ImixMixesColumns : Prop :=
  decodeUop 0xE0 = .ok .imix ∧
  ∀ s : State,
    (s.S.written = true → ∃ t, exec .imix s = .next t ∧
      t = { s with S := t.S, UPC := s.UPC + 1 } ∧ t.S.written = true ∧
      ∀ c (_ : c < 4), ∀ a0 a1 a2 a3 : Byte,
        a0 = s.S.bytes[4 * c] → a1 = s.S.bytes[4 * c + 1] → a2 = s.S.bytes[4 * c + 2] →
        a3 = s.S.bytes[4 * c + 3] →
        t.S.bytes[4 * c] = gmul 0x0E a0 ^^^ gmul 0x0B a1 ^^^ gmul 0x0D a2 ^^^ gmul 0x09 a3 ∧
        t.S.bytes[4 * c + 1] = gmul 0x09 a0 ^^^ gmul 0x0E a1 ^^^ gmul 0x0B a2 ^^^ gmul 0x0D a3 ∧
        t.S.bytes[4 * c + 2] = gmul 0x0D a0 ^^^ gmul 0x09 a1 ^^^ gmul 0x0E a2 ^^^ gmul 0x0B a3 ∧
        t.S.bytes[4 * c + 3] = gmul 0x0B a0 ^^^ gmul 0x0D a1 ^^^ gmul 0x09 a2 ^^^ gmul 0x0E a3) ∧
    (s.S.written = false → exec .imix s = .fault .unwrittenRead)

/-- R150: ARK r, with each of its three outcomes. -/
def Obligations.ArkAddsRoundKey : Prop :=
  (∀ (s : State) (r : BitVec 4), r.toNat ≤ 10 → decodeUop (0x30 + r.setWidth 8) = .ok (.ark r) ∧
    (s.S.written = true → (∀ i, i < 16 → (s.RK.read (16 * r.toNat + i)).isSome = true) →
      ∃ t, exec (.ark r) s = .next t ∧
        t = { s with S := t.S, UPC := s.UPC + 1 } ∧ t.S.written = true ∧
        ∀ i (_ : i < 16), ∃ k, s.RK.read (16 * r.toNat + i) = some k ∧
          t.S.bytes[i] = s.S.bytes[i] ^^^ k) ∧
    ((s.S.written = false ∨ ∃ i, i < 16 ∧ s.RK.read (16 * r.toNat + i) = none) →
      exec (.ark r) s = .fault .unwrittenRead)) ∧
  (∀ (s : State) (r : BitVec 4), 10 < r.toNat → exec (.ark r) s = .fault .illegalUop)

/-- R157, with R156 for what KEXP reads, writes and leaves: the key is the first four words, every later word is the sum
R157 gives, all 176 bytes are written and nothing else is. -/
def Obligations.KexpExpandsKey : Prop :=
  decodeUop 0x20 = .ok .kexp ∧
  ∀ s : State,
    (s.K.written = true → ∃ t, exec .kexp s = .next t ∧
      t = { s with RK := t.RK, UPC := s.UPC + 1 } ∧
      (∀ i (_ : i < 16), t.RK.read i = some s.K.bytes[i]) ∧
      (∀ w, 4 ≤ w → w < 44 → ∃ a b : KeyWord,
        t.RK.readVec (4 * (w - 4)) 4 = some a ∧ t.RK.readVec (4 * (w - 1)) 4 = some b ∧
        t.RK.readVec (4 * w) 4 = some (xorBytes a
          (if w % 4 = 0 then
            #v[sboxAt b[1] ^^^ rconAt (w / 4 - 1), sboxAt b[2], sboxAt b[3], sboxAt b[0]]
           else b))) ∧
      (∀ a, 176 ≤ a → t.RK.read a = s.RK.read a)) ∧
    (s.K.written = false → exec .kexp s = .fault .unwrittenRead)

/-- R160: the first 16 bytes of the schedule are the key, and the schedule is a function of the key alone, whatever RK
held before; from canonical stores the two stores are the same data. -/
def Obligations.KexpIsPureInTheKey : Prop :=
  ∀ s u : State, s.K.written = true → u.K = s.K → ∃ s' u', exec .kexp s = .next s' ∧
    exec .kexp u = .next u' ∧
    (∀ i (_ : i < 16), s'.RK.read i = some s.K.bytes[i]) ∧
    (∀ a, a < 176 → (s'.RK.read a).isSome = true ∧ s'.RK.read a = u'.RK.read a) ∧
    (s.RK.wf = true → u.RK.wf = true → s'.RK = u'.RK)

/-- R51, R156, R157: after KEXP the 16 bytes at `16*r` are round key `r` of the schedule, the one the command-level
functions of R180 and R181 use. -/
def Obligations.KexpStoresRoundKeys : Prop :=
  ∀ s : State, s.K.written = true → ∃ t, exec .kexp s = .next t ∧
    ∀ r, r ≤ 10 → t.RK.readVec (16 * r) 16 = some (roundKey s.K.bytes r)

/-- R176: OUT; and the response stays on the ports until an accept step or a reset. -/
def Obligations.OutDeliversResult : Prop :=
  decodeUop 0x70 = .ok .out ∧
  ∀ s : State,
    (s.S.written = true → ∃ t, exec .out s = .next t ∧
      t = { s with DOUT := t.DOUT, RSP_STATUS := 0, RSP_VALID := true, BUSY := false } ∧
      t.DOUT.written = true ∧ (∀ i (_ : i < 16), t.DOUT.bytes[i] = s.S.bytes[i]) ∧
      outputsOf t = ⟨true, true, 0, packLanes t.DOUT.bytes⟩) ∧
    (s.S.written = false → exec .out s = .fault .unwrittenRead) ∧
    (s.BUSY = false → s.sample.rst = false → s.sample.reqValid = false →
      ∃ t, step s = .next t ∧ outputsOf t = outputsOf s)

/-! ### Whole-machine rules -/

/-- R200, R206, R207: the only stops of an instruction are the two model faults, and exactly when they arise; a command
never stops, and nothing is refused. -/
def Obligations.StopsOnlyWhereTheRulesSay : Prop :=
  ∀ (i : Instr) (s : State),
    (exec i s = .fault .illegalUop ↔ ∃ r : BitVec 4, i = .ark r ∧ 10 < r.toNat) ∧
    (exec i s = .fault .unwrittenRead ↔
      (i = .lds ∧ s.DIN.written = false) ∨
      (i = .kexp ∧ s.K.written = false) ∨
      (i ∈ [Instr.sub, .shr, .mix, .isub, .ishr, .imix, .out] ∧ s.S.written = false) ∨
      (∃ r : BitVec 4, i = .ark r ∧ r.toNat ≤ 10 ∧
        (s.S.written = false ∨ ∃ j, j < 16 ∧ s.RK.read (16 * r.toNat + j) = none))) ∧
    (∀ x, exec i s ≠ .refused x)

/-- R21, R41: the frame of the eight micro-ops that write `S`: every other register, the control registers and every byte
of RK are as before, and the micro-program counter goes on by one. -/
def Obligations.WorkingStateMicroOpsFrame : Prop :=
  ∀ (i : Instr) (s t : State),
    (∃ r, i = .ark r) ∨ i ∈ [Instr.lds, .sub, .shr, .mix, .isub, .ishr, .imix] → exec i s = .next t →
    t.K = s.K ∧ t.DIN = s.DIN ∧ t.DOUT = s.DOUT ∧ t.OP = s.OP ∧ t.UPC = s.UPC + 1 ∧
    t.BUSY = s.BUSY ∧ t.RSP_VALID = s.RSP_VALID ∧ t.RSP_STATUS = s.RSP_STATUS ∧ t.inputs = s.inputs ∧
    ∀ a, t.RK.read a = s.RK.read a

/-- R41, R156, R176: the frames of KEXP, which stores to RK addresses 0 to 175 only, and of OUT, which stores nothing to
RK. -/
def Obligations.KexpAndOutFrames : Prop :=
  (∀ s t : State, exec .kexp s = .next t →
    t.S = s.S ∧ t.K = s.K ∧ t.DIN = s.DIN ∧ t.DOUT = s.DOUT ∧ t.OP = s.OP ∧ t.UPC = s.UPC + 1 ∧
    t.BUSY = s.BUSY ∧ t.RSP_VALID = s.RSP_VALID ∧ t.RSP_STATUS = s.RSP_STATUS ∧ t.inputs = s.inputs ∧
    ∀ a, ¬(a < 176) → t.RK.read a = s.RK.read a) ∧
  (∀ s t : State, exec .out s = .next t →
    t.S = s.S ∧ t.K = s.K ∧ t.DIN = s.DIN ∧ t.OP = s.OP ∧ t.UPC = s.UPC ∧ t.inputs = s.inputs ∧
    ∀ a, t.RK.read a = s.RK.read a)

/-- R41, R171, R173, R202, R203: the frame of both commands, whatever their lengths and the state: `S`, `DOUT` and every
byte of RK are as before, and unless the request is accepted so are `DIN`, `K`, `OP`, `UPC` and `BUSY`. That S and RK keep
their marks at an accept step is the model's choice (log 5), and a command executed on a busy controller is R173 as the
model reads it for `exec` (log 8). -/
def Obligations.CommandsFrame : Prop :=
  ∀ (i : Instr) (dl kl : Byte) (data key : Block) (s t : State),
    i = .encrypt dl kl data key ∨ i = .decrypt dl kl data key → exec i s = .next t →
    t.S = s.S ∧ t.DOUT = s.DOUT ∧ t.inputs = s.inputs ∧ (∀ a, t.RK.read a = s.RK.read a) ∧
    (s.BUSY = true ∨ dl ≠ 16 ∨ kl ≠ 16 →
      t.DIN = s.DIN ∧ t.K = s.K ∧ t.OP = s.OP ∧ t.UPC = s.UPC ∧ t.BUSY = s.BUSY)

/-- R27, R184: every micro-op but OUT advances the micro-program counter by one and keeps the controller as it is; OUT
leaves it and clears BUSY; no data value ever influences which micro-op runs next. -/
def Obligations.MicroOpsAdvanceUpc : Prop :=
  ∀ (i : Instr) (s t : State), i.isCommand = false → exec i s = .next t →
    (i ≠ .out → t.UPC = s.UPC + 1 ∧ t.BUSY = s.BUSY) ∧ (i = .out → t.UPC = s.UPC ∧ t.BUSY = false)

/-- R26, R236: outside a reset, only a step whose micro-op is KEXP changes RK; so the schedule is read-only once
produced. -/
def Obligations.OnlyKexpWritesRk : Prop :=
  ∀ s t : State, step s = .next t → s.sample.rst = false →
    ¬(s.BUSY = true ∧ decodeUop (fetch uromImage s.UPC) = .ok .kexp) → t.RK = s.RK

/-- R30, R205: a step leaves the status as it was or writes OK or InvalidLength; AllocationFailure and the reserved code
are never produced. -/
def Obligations.StatusCodesProduced : Prop :=
  ∀ s t : State, step s = .next t →
    t.RSP_STATUS = s.RSP_STATUS ∨ t.RSP_STATUS = 0 ∨ t.RSP_STATUS = 1

/-- R36, R204: the output ports, lane by lane, and that a state without an OK response shows no data. -/
def Obligations.OutputsAreGated : Prop :=
  ∀ s : State, (outputsOf s).reqReady = !s.BUSY ∧ (outputsOf s).rspValid = s.RSP_VALID ∧
    (outputsOf s).rspStatus = s.RSP_STATUS ∧
    ∀ i (_ : i < 16), (outputsOf s).rspData.extractLsb' (120 - 8 * i) 8 =
      if s.RSP_VALID = true ∧ s.RSP_STATUS = 0 then s.DOUT.bytes[i] else 0

/-- R68, R219: an instance's step is a function of its own state, and leaves every other instance of the chip as it
was. -/
def Obligations.InstancesAreIsolated : Prop :=
  ∀ (chip other : Chip) (k : Nat) (s : State), chip[k]? = some s → other[k]? = some s →
    (∀ t, step s = .next t → ∃ chip' other', chipStep chip k = .next chip' ∧
      chipStep other k = .next other' ∧ chip'[k]? = some t ∧ other'[k]? = some t ∧
      chip'.length = chip.length ∧ ∀ j, j ≠ k → chip'[j]? = chip[j]?) ∧
    (∀ f, step s = .fault f → chipStep chip k = .fault f ∧ chipStep other k = .fault f)

/-! ### Algebra -/

/-- R111, R112: xtime is doubling modulo the 9-bit polynomial 0x11B, and a bijection on bytes. -/
def Obligations.XtimeDoublesInTheField : Prop :=
  (∀ a : Byte, (xtime a).setWidth 9 =
    if a.getLsbD 7 then (a.setWidth 9 <<< 1) ^^^ 0x11B#9 else a.setWidth 9 <<< 1) ∧
  (∀ a b : Byte, xtime a = xtime b → a = b) ∧ (∀ b : Byte, ∃ a, xtime a = b)

/-- R114, R115: the laws of the field, and the constant multipliers of IMIX from three doublings. -/
def Obligations.FieldLaws : Prop :=
  (∀ a : Byte, gmul a 0x00 = 0x00 ∧ gmul a 0x01 = a ∧ gmul a 0x02 = xtime a ∧
    gmul a 0x03 = xtime a ^^^ a) ∧
  (∀ a b : Byte, gmul a b = gmul b a) ∧
  (∀ a b c : Byte, gmul a (b ^^^ c) = gmul a b ^^^ gmul a c) ∧
  (∀ a b c : Byte, gmul (gmul a b) c = gmul a (gmul b c)) ∧
  (∀ a : Byte, a ≠ 0 → ∃ x, gmul a x = 0x01 ∧ ∀ y, gmul a y = 0x01 → y = x) ∧
  (∀ a x2 x4 x8 : Byte, x2 = xtime a → x4 = xtime x2 → x8 = xtime x4 →
    gmul 0x09 a = x8 ^^^ a ∧ gmul 0x0B a = x8 ^^^ x2 ^^^ a ∧
    gmul 0x0D a = x8 ^^^ x4 ^^^ a ∧ gmul 0x0E a = x8 ^^^ x4 ^^^ x2)

/-- R123: the properties of the two tables. -/
def Obligations.SboxTablesAreInverse : Prop :=
  sboxRom.length = 256 ∧ invSboxRom.length = 256 ∧
  (∀ x : Byte, invSboxAt (sboxAt x) = x ∧ sboxAt (invSboxAt x) = x) ∧
  (∀ y : Byte, ∃ x, sboxAt x = y) ∧
  (∀ x : Byte, sboxAt x ≠ x ∧ sboxAt x ≠ x ^^^ 0xFF) ∧
  sboxAt 0x00 = 0x63 ∧ sboxAt 0x52 = 0x00 ∧ invSboxAt 0x00 = 0x52 ∧ invSboxAt 0x63 = 0x00

/-- R122: the forward table from the field inverse and four rotations. -/
def Obligations.SboxConstruction : Prop :=
  ∀ x y : Byte, gmul x y = 0x01 ∨ (x = 0 ∧ y = 0) →
    sboxAt x = y ^^^ y.rotateLeft 1 ^^^ y.rotateLeft 2 ^^^ y.rotateLeft 3 ^^^ y.rotateLeft 4 ^^^ 0x63

/-- R155: the round constants are successive doublings of 1. -/
def Obligations.RoundConstantsDouble : Prop :=
  rconRom.length = 10 ∧ rconAt 0 = 0x01 ∧ ∀ i, i < 9 → rconAt (i + 1) = xtime (rconAt i)

/-- R126: SUB and ISUB undo each other, and each commutes with SHR and ISHR. -/
def Obligations.SubAndIsubUndoAndCommute : Prop :=
  (∀ s : State, s.S.written = true →
    execSeq [.sub, .isub] s = .next { s with UPC := s.UPC + 2 } ∧
    execSeq [.isub, .sub] s = .next { s with UPC := s.UPC + 2 }) ∧
  (∀ s : State,
    execSeq [.sub, .shr] s = execSeq [.shr, .sub] s ∧ execSeq [.sub, .ishr] s = execSeq [.ishr, .sub] s ∧
    execSeq [.isub, .shr] s = execSeq [.shr, .isub] s ∧
    execSeq [.isub, .ishr] s = execSeq [.ishr, .isub] s)

/-- R131, R132, R133: SHR and ISHR undo each other; SHR has order four, since four times is the identity and twice is not;
and three times is ISHR. -/
def Obligations.ShrAndIshrUndo : Prop :=
  (∀ s : State, s.S.written = true →
    execSeq [.shr, .ishr] s = .next { s with UPC := s.UPC + 2 } ∧
    execSeq [.ishr, .shr] s = .next { s with UPC := s.UPC + 2 } ∧
    execSeq [.shr, .shr, .shr, .shr] s = .next { s with UPC := s.UPC + 4 } ∧
    ∃ t u, execSeq [.shr, .shr, .shr] s = .next t ∧ exec .ishr s = .next u ∧ t.S = u.S) ∧
  ∃ s t : State, execSeq [.shr, .shr] s = .next t ∧ t.S ≠ s.S

/-- R143, R144: IMIX and MIX undo each other; MIX four times is the identity and three times is IMIX. -/
def Obligations.MixAndImixUndo : Prop :=
  ∀ s : State, s.S.written = true →
    execSeq [.mix, .imix] s = .next { s with UPC := s.UPC + 2 } ∧
    execSeq [.imix, .mix] s = .next { s with UPC := s.UPC + 2 } ∧
    execSeq [.mix, .mix, .mix, .mix] s = .next { s with UPC := s.UPC + 4 } ∧
    ∃ t u, execSeq [.mix, .mix, .mix] s = .next t ∧ exec .imix s = .next u ∧ t.S = u.S

/-- R141, R143, R145: MIX and IMIX are linear over byte-wise exclusive-or. -/
def Obligations.ColumnMixesAreLinear : Prop :=
  ∀ a b : Block, mixColumns (xorBytes a b) = xorBytes (mixColumns a) (mixColumns b) ∧
    invMixColumns (xorBytes a b) = xorBytes (invMixColumns a) (invMixColumns b)

/-- R151: the same round key twice restores the state, and two key additions commute. -/
def Obligations.ArkTwiceRestores : Prop :=
  (∀ (s : State) (r : BitVec 4), r.toNat ≤ 10 → s.S.written = true →
    s.RK.covers (16 * r.toNat) 16 = true →
    execSeq [.ark r, .ark r] s = .next { s with UPC := s.UPC + 2 }) ∧
  (∀ (s : State) (q r : BitVec 4), q.toNat ≤ 10 → r.toNat ≤ 10 →
    execSeq [.ark q, .ark r] s = execSeq [.ark r, .ark q] s)

/-! ### Runs -/

/-- R183: the round trip, both ways. -/
def Obligations.CipherRoundTrip : Prop :=
  ∀ p key : Block, decryptBlock (encryptBlock p key) key = p ∧ encryptBlock (decryptBlock p key) key = p

/-- The invariant of Safety.lean holds after reset (R37, R40). -/
def Obligations.ResetMeetsTheInvariant : Prop := State.reset.Inv

/-- R37, R174, R184, R206, R207: from every state of the invariant a step answers a next state, of the invariant again:
neither model fault can occur, and nothing is refused. -/
def Obligations.EveryStepKeepsTheInvariant : Prop :=
  ∀ s : State, s.Inv → ∃ t, step s = .next t ∧ t.Inv

/-- R50, R58: every step from a canonical round-key store leaves one, whatever the rest of the state. -/
def Obligations.EveryStepKeepsRkCanonical : Prop :=
  ∀ s t : State, s.RK.wf = true → step s = .next t → t.RK.wf = true

/-- R174, R184, R186: a running controller that is not reset reaches the end of its run after exactly the micro-ops that
are left, visiting the addresses in order, silent and busy until then. The samples to come are in the state (log 3). -/
def Obligations.RunsEndAtOut : Prop :=
  ∀ s : State, s.InRun → s.BUSY = true → s.quiet (43 - s.offset) →
    (∀ j, j < 43 - s.offset → ∃ u, run j s = .next u ∧ u.BUSY = true ∧ u.RSP_VALID = false ∧
      u.UPC.toNat = s.UPC.toNat + j) ∧
    ∃ t, run (43 - s.offset) s = .next t ∧ t.BUSY = false ∧ t.RSP_VALID = true ∧ t.RSP_STATUS = 0 ∧
      t.OP = s.OP ∧ t.UPC.toNat = (startAddr s.OP).toNat + 42

/-- R182 with R180 and R186, for `ENCRYPT`: from every idle state, an accepted request that is not reset ends after 44
steps with `DOUT = Encrypt(data, key)` and the response OK; 44 port samples are used up (the model's choice, log 3). -/
def Obligations.EncryptRunDelivers : Prop :=
  ∀ s : State, s.BUSY = false → s.quiet 44 → s.sample.reqValid = true → s.sample.cmd.op = 0 →
    s.sample.cmd.dataLen = 16 → s.sample.cmd.keyLen = 16 →
    ∃ t, run 44 s = .next t ∧
      t.DOUT = ⟨true, encryptBlock (unpackLanes s.sample.cmd.data) (unpackLanes s.sample.cmd.key)⟩ ∧
      t.DIN = ⟨true, unpackLanes s.sample.cmd.data⟩ ∧ t.K = ⟨true, unpackLanes s.sample.cmd.key⟩ ∧
      t.OP = 0 ∧ t.UPC = 0x2A ∧ t.BUSY = false ∧ t.RSP_VALID = true ∧ t.RSP_STATUS = 0 ∧
      t.inputs = s.inputs.drop 44

/-- R182 with R181 and R186, for `DECRYPT`, with the port samples of log 3. -/
def Obligations.DecryptRunDelivers : Prop :=
  ∀ s : State, s.BUSY = false → s.quiet 44 → s.sample.reqValid = true → s.sample.cmd.op = 1 →
    s.sample.cmd.dataLen = 16 → s.sample.cmd.keyLen = 16 →
    ∃ t, run 44 s = .next t ∧
      t.DOUT = ⟨true, decryptBlock (unpackLanes s.sample.cmd.data) (unpackLanes s.sample.cmd.key)⟩ ∧
      t.DIN = ⟨true, unpackLanes s.sample.cmd.data⟩ ∧ t.K = ⟨true, unpackLanes s.sample.cmd.key⟩ ∧
      t.OP = 1 ∧ t.UPC = 0x6A ∧ t.BUSY = false ∧ t.RSP_VALID = true ∧ t.RSP_STATUS = 0 ∧
      t.inputs = s.inputs.drop 44

/-- R190: from every idle state, the response to a request is the function `respond` of its fields: of nothing the state
held before. It is there at the end of the run (R186): after one step if a length is wrong, and after 44 otherwise. The
port samples to come are in the state (log 3). -/
def Obligations.ResponseIsAFunctionOfTheRequest : Prop :=
  ∀ (s : State) (k : Nat), s.BUSY = false → s.sample.reqValid = true →
    k = (if s.sample.cmd.dataLen = 16 ∧ s.sample.cmd.keyLen = 16 then 44 else 1) → s.quiet k →
    ∃ t, run k s = .next t ∧ t.BUSY = false ∧ responseOf t = some (respond s.sample.cmd)

/-- R38, R190, R232: from two idle states of any contents, the same host, sending a request first and anything at all
later, resets included, sees the same responses and the same `rsp_data` at every later step; neither shows anything of earlier invocations. (The
port `rsp_status` still shows the old status while `rsp_valid` is 0, where it means nothing: U10.) The port samples to
come are in the state (log 3). -/
def Obligations.EarlierStateIsNotObservable : Prop :=
  ∀ (s u : State) (k : Nat), s.BUSY = false → u.BUSY = false → s.inputs = u.inputs →
    s.sample.rst = false → s.sample.reqValid = true →
    ∃ s' u', run (k + 1) s = .next s' ∧ run (k + 1) u = .next u' ∧
      s'.BUSY = u'.BUSY ∧ responseOf s' = responseOf u' ∧
      (outputsOf s').rspData = (outputsOf u').rspData
end

