-- ==== Sys2Proof/Laws/State.lean ====
section
/-! SUPPORT. One lemma per field per update of State, each true by unfolding the update once. -/

namespace Sys2Proof.Machine

section nextUpc

@[simp] theorem State.nextUpc_S (s : State) :
    s.nextUpc.S = s.S := rfl
@[simp] theorem State.nextUpc_K (s : State) :
    s.nextUpc.K = s.K := rfl
@[simp] theorem State.nextUpc_DIN (s : State) :
    s.nextUpc.DIN = s.DIN := rfl
@[simp] theorem State.nextUpc_DOUT (s : State) :
    s.nextUpc.DOUT = s.DOUT := rfl
@[simp] theorem State.nextUpc_RK (s : State) :
    s.nextUpc.RK = s.RK := rfl
@[simp] theorem State.nextUpc_OP (s : State) :
    s.nextUpc.OP = s.OP := rfl
@[simp] theorem State.nextUpc_UPC (s : State) :
    s.nextUpc.UPC = s.UPC + 1 := rfl
@[simp] theorem State.nextUpc_BUSY (s : State) :
    s.nextUpc.BUSY = s.BUSY := rfl
@[simp] theorem State.nextUpc_RSP_VALID (s : State) :
    s.nextUpc.RSP_VALID = s.RSP_VALID := rfl
@[simp] theorem State.nextUpc_RSP_STATUS (s : State) :
    s.nextUpc.RSP_STATUS = s.RSP_STATUS := rfl
@[simp] theorem State.nextUpc_inputs (s : State) :
    s.nextUpc.inputs = s.inputs := rfl

end nextUpc

section markRunning

@[simp] theorem State.markRunning_S (s : State) (op : BitVec 1) (a : BitVec 7) :
    (s.markRunning op a).S = s.S := rfl
@[simp] theorem State.markRunning_K (s : State) (op : BitVec 1) (a : BitVec 7) :
    (s.markRunning op a).K = s.K := rfl
@[simp] theorem State.markRunning_DIN (s : State) (op : BitVec 1) (a : BitVec 7) :
    (s.markRunning op a).DIN = s.DIN := rfl
@[simp] theorem State.markRunning_DOUT (s : State) (op : BitVec 1) (a : BitVec 7) :
    (s.markRunning op a).DOUT = s.DOUT := rfl
@[simp] theorem State.markRunning_RK (s : State) (op : BitVec 1) (a : BitVec 7) :
    (s.markRunning op a).RK = s.RK := rfl
@[simp] theorem State.markRunning_OP (s : State) (op : BitVec 1) (a : BitVec 7) :
    (s.markRunning op a).OP = op := rfl
@[simp] theorem State.markRunning_UPC (s : State) (op : BitVec 1) (a : BitVec 7) :
    (s.markRunning op a).UPC = a := rfl
@[simp] theorem State.markRunning_BUSY (s : State) (op : BitVec 1) (a : BitVec 7) :
    (s.markRunning op a).BUSY = true := rfl
@[simp] theorem State.markRunning_RSP_VALID (s : State) (op : BitVec 1) (a : BitVec 7) :
    (s.markRunning op a).RSP_VALID = false := rfl
@[simp] theorem State.markRunning_RSP_STATUS (s : State) (op : BitVec 1) (a : BitVec 7) :
    (s.markRunning op a).RSP_STATUS = s.RSP_STATUS := rfl
@[simp] theorem State.markRunning_inputs (s : State) (op : BitVec 1) (a : BitVec 7) :
    (s.markRunning op a).inputs = s.inputs := rfl

end markRunning

section markDone

@[simp] theorem State.markDone_S (s : State) :
    s.markDone.S = s.S := rfl
@[simp] theorem State.markDone_K (s : State) :
    s.markDone.K = s.K := rfl
@[simp] theorem State.markDone_DIN (s : State) :
    s.markDone.DIN = s.DIN := rfl
@[simp] theorem State.markDone_DOUT (s : State) :
    s.markDone.DOUT = s.DOUT := rfl
@[simp] theorem State.markDone_RK (s : State) :
    s.markDone.RK = s.RK := rfl
@[simp] theorem State.markDone_OP (s : State) :
    s.markDone.OP = s.OP := rfl
@[simp] theorem State.markDone_UPC (s : State) :
    s.markDone.UPC = s.UPC := rfl
@[simp] theorem State.markDone_BUSY (s : State) :
    s.markDone.BUSY = false := rfl
@[simp] theorem State.markDone_RSP_VALID (s : State) :
    s.markDone.RSP_VALID = true := rfl
@[simp] theorem State.markDone_RSP_STATUS (s : State) :
    s.markDone.RSP_STATUS = statusOk := rfl
@[simp] theorem State.markDone_inputs (s : State) :
    s.markDone.inputs = s.inputs := rfl

end markDone

section markError

@[simp] theorem State.markError_S (s : State) (c : BitVec 2) :
    (s.markError c).S = s.S := rfl
@[simp] theorem State.markError_K (s : State) (c : BitVec 2) :
    (s.markError c).K = s.K := rfl
@[simp] theorem State.markError_DIN (s : State) (c : BitVec 2) :
    (s.markError c).DIN = s.DIN := rfl
@[simp] theorem State.markError_DOUT (s : State) (c : BitVec 2) :
    (s.markError c).DOUT = s.DOUT := rfl
@[simp] theorem State.markError_RK (s : State) (c : BitVec 2) :
    (s.markError c).RK = s.RK := rfl
@[simp] theorem State.markError_OP (s : State) (c : BitVec 2) :
    (s.markError c).OP = s.OP := rfl
@[simp] theorem State.markError_UPC (s : State) (c : BitVec 2) :
    (s.markError c).UPC = s.UPC := rfl
@[simp] theorem State.markError_BUSY (s : State) (c : BitVec 2) :
    (s.markError c).BUSY = s.BUSY := rfl
@[simp] theorem State.markError_RSP_VALID (s : State) (c : BitVec 2) :
    (s.markError c).RSP_VALID = true := rfl
@[simp] theorem State.markError_RSP_STATUS (s : State) (c : BitVec 2) :
    (s.markError c).RSP_STATUS = c := rfl
@[simp] theorem State.markError_inputs (s : State) (c : BitVec 2) :
    (s.markError c).inputs = s.inputs := rfl

end markError

section clearControl

@[simp] theorem State.clearControl_S (s : State) :
    s.clearControl.S = s.S := rfl
@[simp] theorem State.clearControl_K (s : State) :
    s.clearControl.K = s.K := rfl
@[simp] theorem State.clearControl_DIN (s : State) :
    s.clearControl.DIN = s.DIN := rfl
@[simp] theorem State.clearControl_DOUT (s : State) :
    s.clearControl.DOUT = s.DOUT := rfl
@[simp] theorem State.clearControl_RK (s : State) :
    s.clearControl.RK = s.RK := rfl
@[simp] theorem State.clearControl_OP (s : State) :
    s.clearControl.OP = 0 := rfl
@[simp] theorem State.clearControl_UPC (s : State) :
    s.clearControl.UPC = 0 := rfl
@[simp] theorem State.clearControl_BUSY (s : State) :
    s.clearControl.BUSY = false := rfl
@[simp] theorem State.clearControl_RSP_VALID (s : State) :
    s.clearControl.RSP_VALID = false := rfl
@[simp] theorem State.clearControl_RSP_STATUS (s : State) :
    s.clearControl.RSP_STATUS = 0 := rfl
@[simp] theorem State.clearControl_inputs (s : State) :
    s.clearControl.inputs = s.inputs := rfl

end clearControl

section writeS

@[simp] theorem State.writeS_S (s : State) (b : Block) :
    (s.writeS b).S = Store.put b := rfl
@[simp] theorem State.writeS_K (s : State) (b : Block) :
    (s.writeS b).K = s.K := rfl
@[simp] theorem State.writeS_DIN (s : State) (b : Block) :
    (s.writeS b).DIN = s.DIN := rfl
@[simp] theorem State.writeS_DOUT (s : State) (b : Block) :
    (s.writeS b).DOUT = s.DOUT := rfl
@[simp] theorem State.writeS_RK (s : State) (b : Block) :
    (s.writeS b).RK = s.RK := rfl
@[simp] theorem State.writeS_OP (s : State) (b : Block) :
    (s.writeS b).OP = s.OP := rfl
@[simp] theorem State.writeS_UPC (s : State) (b : Block) :
    (s.writeS b).UPC = s.UPC := rfl
@[simp] theorem State.writeS_BUSY (s : State) (b : Block) :
    (s.writeS b).BUSY = s.BUSY := rfl
@[simp] theorem State.writeS_RSP_VALID (s : State) (b : Block) :
    (s.writeS b).RSP_VALID = s.RSP_VALID := rfl
@[simp] theorem State.writeS_RSP_STATUS (s : State) (b : Block) :
    (s.writeS b).RSP_STATUS = s.RSP_STATUS := rfl
@[simp] theorem State.writeS_inputs (s : State) (b : Block) :
    (s.writeS b).inputs = s.inputs := rfl

end writeS

section writeDOUT

@[simp] theorem State.writeDOUT_S (s : State) (b : Block) :
    (s.writeDOUT b).S = s.S := rfl
@[simp] theorem State.writeDOUT_K (s : State) (b : Block) :
    (s.writeDOUT b).K = s.K := rfl
@[simp] theorem State.writeDOUT_DIN (s : State) (b : Block) :
    (s.writeDOUT b).DIN = s.DIN := rfl
@[simp] theorem State.writeDOUT_DOUT (s : State) (b : Block) :
    (s.writeDOUT b).DOUT = Store.put b := rfl
@[simp] theorem State.writeDOUT_RK (s : State) (b : Block) :
    (s.writeDOUT b).RK = s.RK := rfl
@[simp] theorem State.writeDOUT_OP (s : State) (b : Block) :
    (s.writeDOUT b).OP = s.OP := rfl
@[simp] theorem State.writeDOUT_UPC (s : State) (b : Block) :
    (s.writeDOUT b).UPC = s.UPC := rfl
@[simp] theorem State.writeDOUT_BUSY (s : State) (b : Block) :
    (s.writeDOUT b).BUSY = s.BUSY := rfl
@[simp] theorem State.writeDOUT_RSP_VALID (s : State) (b : Block) :
    (s.writeDOUT b).RSP_VALID = s.RSP_VALID := rfl
@[simp] theorem State.writeDOUT_RSP_STATUS (s : State) (b : Block) :
    (s.writeDOUT b).RSP_STATUS = s.RSP_STATUS := rfl
@[simp] theorem State.writeDOUT_inputs (s : State) (b : Block) :
    (s.writeDOUT b).inputs = s.inputs := rfl

end writeDOUT

section writeRK

@[simp] theorem State.writeRK_S (s : State) (m : Memory) :
    (s.writeRK m).S = s.S := rfl
@[simp] theorem State.writeRK_K (s : State) (m : Memory) :
    (s.writeRK m).K = s.K := rfl
@[simp] theorem State.writeRK_DIN (s : State) (m : Memory) :
    (s.writeRK m).DIN = s.DIN := rfl
@[simp] theorem State.writeRK_DOUT (s : State) (m : Memory) :
    (s.writeRK m).DOUT = s.DOUT := rfl
@[simp] theorem State.writeRK_RK (s : State) (m : Memory) :
    (s.writeRK m).RK = m := rfl
@[simp] theorem State.writeRK_OP (s : State) (m : Memory) :
    (s.writeRK m).OP = s.OP := rfl
@[simp] theorem State.writeRK_UPC (s : State) (m : Memory) :
    (s.writeRK m).UPC = s.UPC := rfl
@[simp] theorem State.writeRK_BUSY (s : State) (m : Memory) :
    (s.writeRK m).BUSY = s.BUSY := rfl
@[simp] theorem State.writeRK_RSP_VALID (s : State) (m : Memory) :
    (s.writeRK m).RSP_VALID = s.RSP_VALID := rfl
@[simp] theorem State.writeRK_RSP_STATUS (s : State) (m : Memory) :
    (s.writeRK m).RSP_STATUS = s.RSP_STATUS := rfl
@[simp] theorem State.writeRK_inputs (s : State) (m : Memory) :
    (s.writeRK m).inputs = s.inputs := rfl

end writeRK

section writeRequest

@[simp] theorem State.writeRequest_S (s : State) (d k : Block) :
    (s.writeRequest d k).S = s.S := rfl
@[simp] theorem State.writeRequest_K (s : State) (d k : Block) :
    (s.writeRequest d k).K = Store.put k := rfl
@[simp] theorem State.writeRequest_DIN (s : State) (d k : Block) :
    (s.writeRequest d k).DIN = Store.put d := rfl
@[simp] theorem State.writeRequest_DOUT (s : State) (d k : Block) :
    (s.writeRequest d k).DOUT = s.DOUT := rfl
@[simp] theorem State.writeRequest_RK (s : State) (d k : Block) :
    (s.writeRequest d k).RK = s.RK := rfl
@[simp] theorem State.writeRequest_OP (s : State) (d k : Block) :
    (s.writeRequest d k).OP = s.OP := rfl
@[simp] theorem State.writeRequest_UPC (s : State) (d k : Block) :
    (s.writeRequest d k).UPC = s.UPC := rfl
@[simp] theorem State.writeRequest_BUSY (s : State) (d k : Block) :
    (s.writeRequest d k).BUSY = s.BUSY := rfl
@[simp] theorem State.writeRequest_RSP_VALID (s : State) (d k : Block) :
    (s.writeRequest d k).RSP_VALID = s.RSP_VALID := rfl
@[simp] theorem State.writeRequest_RSP_STATUS (s : State) (d k : Block) :
    (s.writeRequest d k).RSP_STATUS = s.RSP_STATUS := rfl
@[simp] theorem State.writeRequest_inputs (s : State) (d k : Block) :
    (s.writeRequest d k).inputs = s.inputs := rfl

end writeRequest

section advance

@[simp] theorem State.advance_S (s : State) :
    s.advance.S = s.S := rfl
@[simp] theorem State.advance_K (s : State) :
    s.advance.K = s.K := rfl
@[simp] theorem State.advance_DIN (s : State) :
    s.advance.DIN = s.DIN := rfl
@[simp] theorem State.advance_DOUT (s : State) :
    s.advance.DOUT = s.DOUT := rfl
@[simp] theorem State.advance_RK (s : State) :
    s.advance.RK = s.RK := rfl
@[simp] theorem State.advance_OP (s : State) :
    s.advance.OP = s.OP := rfl
@[simp] theorem State.advance_UPC (s : State) :
    s.advance.UPC = s.UPC := rfl
@[simp] theorem State.advance_BUSY (s : State) :
    s.advance.BUSY = s.BUSY := rfl
@[simp] theorem State.advance_RSP_VALID (s : State) :
    s.advance.RSP_VALID = s.RSP_VALID := rfl
@[simp] theorem State.advance_RSP_STATUS (s : State) :
    s.advance.RSP_STATUS = s.RSP_STATUS := rfl
@[simp] theorem State.advance_inputs (s : State) :
    s.advance.inputs = s.inputs.tail := rfl

end advance

section resetStep

@[simp] theorem resetStep_S (s : State) :
    (resetStep s).S = s.S.forget := rfl
@[simp] theorem resetStep_K (s : State) :
    (resetStep s).K = s.K.forget := rfl
@[simp] theorem resetStep_DIN (s : State) :
    (resetStep s).DIN = s.DIN.forget := rfl
@[simp] theorem resetStep_DOUT (s : State) :
    (resetStep s).DOUT = s.DOUT.forget := rfl
@[simp] theorem resetStep_RK (s : State) :
    (resetStep s).RK = [] := rfl
@[simp] theorem resetStep_OP (s : State) :
    (resetStep s).OP = 0 := rfl
@[simp] theorem resetStep_UPC (s : State) :
    (resetStep s).UPC = 0 := rfl
@[simp] theorem resetStep_BUSY (s : State) :
    (resetStep s).BUSY = false := rfl
@[simp] theorem resetStep_RSP_VALID (s : State) :
    (resetStep s).RSP_VALID = false := rfl
@[simp] theorem resetStep_RSP_STATUS (s : State) :
    (resetStep s).RSP_STATUS = 0 := rfl
@[simp] theorem resetStep_inputs (s : State) :
    (resetStep s).inputs = s.inputs := rfl

end resetStep

section raiseInvalidLength

@[simp] theorem raiseInvalidLength_S (s : State) :
    (raiseInvalidLength s).S = s.S := rfl
@[simp] theorem raiseInvalidLength_K (s : State) :
    (raiseInvalidLength s).K = s.K := rfl
@[simp] theorem raiseInvalidLength_DIN (s : State) :
    (raiseInvalidLength s).DIN = s.DIN := rfl
@[simp] theorem raiseInvalidLength_DOUT (s : State) :
    (raiseInvalidLength s).DOUT = s.DOUT := rfl
@[simp] theorem raiseInvalidLength_RK (s : State) :
    (raiseInvalidLength s).RK = s.RK := rfl
@[simp] theorem raiseInvalidLength_OP (s : State) :
    (raiseInvalidLength s).OP = s.OP := rfl
@[simp] theorem raiseInvalidLength_UPC (s : State) :
    (raiseInvalidLength s).UPC = s.UPC := rfl
@[simp] theorem raiseInvalidLength_BUSY (s : State) :
    (raiseInvalidLength s).BUSY = s.BUSY := rfl
@[simp] theorem raiseInvalidLength_RSP_VALID (s : State) :
    (raiseInvalidLength s).RSP_VALID = true := rfl
@[simp] theorem raiseInvalidLength_RSP_STATUS (s : State) :
    (raiseInvalidLength s).RSP_STATUS = statusInvalidLength := rfl
@[simp] theorem raiseInvalidLength_inputs (s : State) :
    (raiseInvalidLength s).inputs = s.inputs := rfl

end raiseInvalidLength

@[simp] theorem Store.put_written (b : Block) : (Store.put b).written = true := rfl
@[simp] theorem Store.put_bytes (b : Block) : (Store.put b).bytes = b := rfl
@[simp] theorem Store.forget_written (r : Store) : r.forget.written = false := rfl
@[simp] theorem Store.forget_bytes (r : Store) : r.forget.bytes = r.bytes := rfl

/-- A register read gives its bytes exactly when its mark is true. -/
theorem Store.read_eq_some_iff (r : Store) (b : Block) :
    r.read = some b ↔ r.written = true ∧ r.bytes = b := by
  unfold Store.read
  split <;> simp_all

/-- A register read fails exactly when its mark is false. -/
theorem Store.read_eq_none_iff (r : Store) : r.read = none ↔ r.written = false := by
  unfold Store.read
  split <;> simp_all

@[simp] theorem Store.read_put (b : Block) : (Store.put b).read = some b := rfl

@[simp] theorem State.advance_sample (s : State) : s.advance.sample = s.inputs.tail.headD restPorts := rfl

end Sys2Proof.Machine
end

