-- ==== Sys2Proof/Laws/Memory.lean ====
section
/-! SUPPORT. The round-key store: a read after a write, writes that leave other addresses alone, wide accesses in terms
of bytes, and the canonical form, which every write inside RK keeps. -/

namespace Sys2Proof.Machine

/-- A byte just written is read back. -/
@[simp] theorem Memory.read_write_same (m : Memory) (x : Nat) (v : Byte) :
    (m.write x v).read x = some v := by
  induction m with
  | nil => simp [Memory.write, Memory.read]
  | cons c m ih =>
    obtain ⟨a, b⟩ := c
    simp only [Memory.write]
    split
    · simp [Memory.read]
    · split
      · simp [Memory.read]
      · rename_i h
        simp [Memory.read, h, ih]

/-- A write leaves every other address alone. -/
theorem Memory.read_write_of_ne (m : Memory) {x y : Nat} (v : Byte) (h : x ≠ y) :
    (m.write x v).read y = m.read y := by
  induction m with
  | nil => simp [Memory.write, Memory.read, h]
  | cons c m ih =>
    obtain ⟨a, b⟩ := c
    simp only [Memory.write]
    split
    · simp [Memory.read, h]
    · split
      · rename_i e
        subst e
        simp [Memory.read, h]
      · simp [Memory.read, ih]

/-- What a byte reads as after one write. -/
theorem Memory.read_write (m : Memory) (x y : Nat) (v : Byte) :
    (m.write x v).read y = if x = y then some v else m.read y := by
  split
  · subst_vars; simp
  · exact Memory.read_write_of_ne m v ‹_›

/-- What a byte reads as after consecutive writes. -/
theorem Memory.read_writeList (bs : List Byte) : ∀ (m : Memory) (a y : Nat),
    (m.writeList a bs).read y =
      if a ≤ y ∧ y < a + bs.length then bs[y - a]? else m.read y := by
  induction bs with
  | nil =>
    intro m a y
    simp [Memory.writeList]
  | cons b bs ih =>
    intro m a y
    rw [Memory.writeList, ih, Memory.read_write]
    by_cases hy : a = y
    · subst hy
      simp
    · by_cases hin : a + 1 ≤ y ∧ y < a + 1 + bs.length
      · have h1 : a ≤ y ∧ y < a + (b :: bs).length := by simp; omega
        have h2 : y - a = (y - (a + 1)) + 1 := by omega
        rw [if_pos hin, if_pos h1, h2, List.getElem?_cons_succ]
      · have h1 : ¬(a ≤ y ∧ y < a + (b :: bs).length) := by simp; omega
        rw [if_neg hin, if_neg h1, if_neg hy]

/-- What a byte reads as after a wide write: the array's own byte inside it, the old one outside it. -/
theorem Memory.read_writeVec {n : Nat} (m : Memory) (a y : Nat) (v : Vector Byte n) :
    (m.writeVec a v).read y =
      if h : a ≤ y ∧ y < a + n then some (v[y - a]'(by omega)) else m.read y := by
  rw [Memory.writeVec, Memory.read_writeList]
  by_cases h : a ≤ y ∧ y < a + n
  · have h1 : a ≤ y ∧ y < a + v.toList.length := by simpa using h
    have h2 : y - a < v.toList.length := by simp; omega
    rw [if_pos h1, dif_pos h, List.getElem?_eq_getElem h2, Vector.getElem_toList]
  · have h1 : ¬(a ≤ y ∧ y < a + v.toList.length) := by simpa using h
    rw [if_neg h1, dif_neg h]

/-- A range is covered when each of its bytes has a value. -/
theorem Memory.covers_iff (m : Memory) (a n : Nat) :
    m.covers a n = true ↔ ∀ i, i < n → (m.read (a + i)).isSome = true := by
  simp [Memory.covers]

/-- A wide read gives an array exactly when it gives each byte of it. -/
theorem Memory.readVec_eq_some_iff {n : Nat} (m : Memory) (a : Nat) (v : Vector Byte n) :
    m.readVec a n = some v ↔ ∀ i (h : i < n), m.read (a + i) = some v[i] := by
  unfold Memory.readVec
  constructor
  · intro h i hi
    split at h
    · rename_i hc
      have h1 := (Memory.covers_iff m a n).1 hc i hi
      obtain ⟨b, hb⟩ := Option.isSome_iff_exists.1 h1
      have h2 := Option.some.inj h
      subst h2
      simp [hb]
    · cases h
  · intro h
    have hc : m.covers a n = true := (Memory.covers_iff m a n).2 fun i hi => by simp [h i hi]
    rw [if_pos hc]
    congr 1
    ext i hi
    simp [h i hi]

/-- A wide read fails exactly when some byte of it is unwritten. -/
theorem Memory.readVec_eq_none_iff (m : Memory) (a n : Nat) :
    m.readVec a n = none ↔ m.covers a n = false := by
  unfold Memory.readVec
  split <;> simp_all

/-- A wide read of a covered range succeeds. -/
theorem Memory.exists_readVec {m : Memory} {a n : Nat} (h : m.covers a n = true) :
    ∃ v : Vector Byte n, m.readVec a n = some v := by
  simp [Memory.readVec, h]

/-- A covered range covers each part of it. -/
theorem Memory.covers_mono {m : Memory} {a n b k : Nat} (h : m.covers a n = true)
    (h1 : a ≤ b) (h2 : b + k ≤ a + n) : m.covers b k = true := by
  rw [Memory.covers_iff] at h ⊢
  intro i hi
  have h3 := h (b - a + i) (by omega)
  rwa [show a + (b - a + i) = b + i by omega] at h3

theorem Memory.wfAbove_write (m : Memory) : ∀ (low x : Nat) (v : Byte),
    Memory.wfAbove low m = true → low ≤ x → x < Config.rkBytes →
    Memory.wfAbove low (m.write x v) = true := by
  induction m with
  | nil =>
    intro low x v _ h1 h2
    simp [Memory.write, Memory.wfAbove, h1, h2]
  | cons c m ih =>
    obtain ⟨a, b⟩ := c
    intro low x v h h1 h2
    simp only [Memory.wfAbove, Bool.and_eq_true, decide_eq_true_eq] at h
    obtain ⟨⟨h3, h4⟩, h5⟩ := h
    simp only [Memory.write]
    split
    · have h6 : x + 1 ≤ a := by omega
      simp [Memory.wfAbove, h1, h2, h4, h5, h6]
    · split
      · rename_i e
        subst e
        simp [Memory.wfAbove, h1, h2, h5]
      · have h6 : a + 1 ≤ x := by omega
        simp [Memory.wfAbove, h3, h4, ih (a + 1) x v h5 h6 h2]

/-- A write inside RK keeps the canonical form. -/
theorem Memory.wf_write {m : Memory} {x : Nat} (v : Byte) (h : m.wf = true)
    (hx : x < Config.rkBytes) : (m.write x v).wf = true :=
  Memory.wfAbove_write m 0 x v h (Nat.zero_le x) hx

/-- Consecutive writes inside RK keep the canonical form. -/
theorem Memory.wf_writeList (bs : List Byte) : ∀ {m : Memory} {a : Nat}, m.wf = true →
    a + bs.length ≤ Config.rkBytes → (m.writeList a bs).wf = true := by
  induction bs with
  | nil => intro m a h _; exact h
  | cons b bs ih =>
    intro m a h ha
    simp only [List.length_cons] at ha
    exact ih (Memory.wf_write b h (by omega)) (by omega)

/-- A wide write inside RK keeps the canonical form. -/
theorem Memory.wf_writeVec {n : Nat} {m : Memory} {a : Nat} (v : Vector Byte n) (h : m.wf = true)
    (ha : a + n ≤ Config.rkBytes) : (m.writeVec a v).wf = true :=
  Memory.wf_writeList v.toList h (by simpa using ha)

/-- An address below the first listed one is unwritten. -/
theorem Memory.read_eq_none_of_lt (m : Memory) : ∀ {low x : Nat},
    Memory.wfAbove low m = true → x < low → m.read x = none := by
  induction m with
  | nil => intro low x _ _; rfl
  | cons c m ih =>
    obtain ⟨a, b⟩ := c
    intro low x h hx
    simp only [Memory.wfAbove, Bool.and_eq_true, decide_eq_true_eq] at h
    obtain ⟨⟨h3, _⟩, h5⟩ := h
    have h6 : a ≠ x := by omega
    rw [Memory.read, if_neg h6]
    exact ih h5 (by omega)

theorem Memory.eq_of_read_eq_above (m : Memory) : ∀ {m' : Memory} {low : Nat},
    Memory.wfAbove low m = true → Memory.wfAbove low m' = true →
    (∀ x, m.read x = m'.read x) → m = m' := by
  induction m with
  | nil =>
    intro m' low _ h' e
    cases m' with
    | nil => rfl
    | cons c m' =>
      obtain ⟨a, b⟩ := c
      have h1 := e a
      simp [Memory.read] at h1
  | cons c m ih =>
    obtain ⟨a, b⟩ := c
    intro m' low h h' e
    cases m' with
    | nil =>
      have h1 := e a
      simp [Memory.read] at h1
    | cons c' m' =>
      obtain ⟨a', b'⟩ := c'
      simp only [Memory.wfAbove, Bool.and_eq_true, decide_eq_true_eq] at h h'
      have ha : a = a' := by
        have h1 := e a
        have h2 := e a'
        simp only [Memory.read, if_true] at h1 h2
        by_contra hne
        rw [if_neg (Ne.symm hne)] at h1
        rw [if_neg hne] at h2
        rcases Nat.lt_or_gt_of_ne hne with hlt | hgt
        · rw [Memory.read_eq_none_of_lt m' h'.2 (by omega)] at h1
          cases h1
        · rw [Memory.read_eq_none_of_lt m h.2 (by omega)] at h2
          cases h2
      subst ha
      have hb := e a
      simp only [Memory.read, if_true] at hb
      cases hb
      congr 1
      refine ih h.2 h'.2 fun x => ?_
      by_cases hx : x < a + 1
      · rw [Memory.read_eq_none_of_lt m h.2 hx, Memory.read_eq_none_of_lt m' h'.2 hx]
      · have h1 := e x
        have h2 : a ≠ x := by omega
        rwa [Memory.read, if_neg h2, Memory.read, if_neg h2] at h1

/-- Canonical memories that read alike are the same data. -/
theorem Memory.eq_of_read_eq {m m' : Memory} (h : m.wf = true) (h' : m'.wf = true)
    (e : ∀ x, m.read x = m'.read x) : m = m' :=
  Memory.eq_of_read_eq_above m h h' e

/-- A canonical memory has no byte beyond RK. -/
theorem Memory.read_eq_none_of_ge (m : Memory) : ∀ {low x : Nat},
    Memory.wfAbove low m = true → Config.rkBytes ≤ x → m.read x = none := by
  induction m with
  | nil => intro low x _ _; rfl
  | cons c m ih =>
    obtain ⟨a, b⟩ := c
    intro low x h hx
    simp only [Memory.wfAbove, Bool.and_eq_true, decide_eq_true_eq] at h
    obtain ⟨⟨_, h4⟩, h5⟩ := h
    have h6 : a ≠ x := by omega
    rw [Memory.read, if_neg h6]
    exact ih h5 hx

/-- Reset's memory has the canonical form. -/
theorem Memory.wf_reset : State.reset.RK.wf = true := rfl

end Sys2Proof.Machine
end

