-- ==== Sys2Proof/Laws/KeySchedule.lean ====
section
/-! SUPPORT. The loop of KEXP: it never meets an unwritten byte, and it writes the words of the schedule. -/

namespace Sys2Proof.Machine

/-- A window holds the words it begins at. -/
theorem scheduleWindow_eq (key : Block) (n : Nat) :
    scheduleWindow key n =
      (scheduleWord key n, scheduleWord key (n + 1), scheduleWord key (n + 2), scheduleWord key (n + 3)) := by
  simp only [scheduleWord]
  rcases h : scheduleWindow key n with ⟨a, b, c, d⟩
  simp [scheduleWindow, h]

/-- The word recurrence of R157, from word 4 on. -/
theorem scheduleWord_add_four (key : Block) (n : Nat) :
    scheduleWord key (n + 4) =
      xorBytes (scheduleWord key n)
        (if (n + 4) % 4 = 0 then scheduleCore (scheduleWord key (n + 3)) ((n + 4) / 4)
         else scheduleWord key (n + 3)) := by
  conv_lhs => rw [scheduleWord, scheduleWindow, scheduleWindow, scheduleWindow, scheduleWindow,
    scheduleWindow_eq]

/-- The first `n` words of the schedule of a key stand in a memory. -/
def HoldsSchedule (rk : Memory) (key : Block) (n : Nat) : Prop :=
  ∀ w, w < n → ∀ j (h : j < 4), rk.read (4 * w + j) = some (scheduleWord key w)[j]

/-- A word of the schedule that stands in a memory is read there. -/
theorem HoldsSchedule.readVec {rk : Memory} {key : Block} {n w : Nat}
    (h : HoldsSchedule rk key n) (hw : w < n) :
    rk.readVec (4 * w) 4 = some (scheduleWord key w) :=
  (Memory.readVec_eq_some_iff rk (4 * w) _).2 fun j hj => h w hw j hj

/-- One position of the loop writes one more word. -/
theorem kexpWord_step {rk : Memory} {key : Block} {k : Nat} (h : HoldsSchedule rk key (k + 4)) :
    kexpWord rk (16 + 4 * k) = some (rk.writeVec (16 + 4 * k) (scheduleWord key (k + 4))) := by
  have h1 := h.readVec (w := k + 3) (by omega)
  have h2 := h.readVec (w := k) (by omega)
  rw [kexpWord, show 16 + 4 * k - 4 = 4 * (k + 3) by omega,
    show 16 + 4 * k - 16 = 4 * k by omega, h1, h2]
  simp only
  rw [scheduleWord_add_four]
  by_cases hm : (k + 4) % 4 = 0
  · have h3 : (16 + 4 * k) % 16 = 0 := by omega
    have h4 : (16 + 4 * k) / 16 = (k + 4) / 4 := by omega
    rw [if_pos hm, if_pos h3, h4]
  · have h3 : ¬(16 + 4 * k) % 16 = 0 := by omega
    rw [if_neg hm, if_neg h3]

/-- One more word of the schedule stands in the memory after its write. -/
theorem HoldsSchedule.write {rk : Memory} {key : Block} {k : Nat} (h : HoldsSchedule rk key (k + 4)) :
    HoldsSchedule (rk.writeVec (16 + 4 * k) (scheduleWord key (k + 4))) key (k + 5) := by
  intro w hw j hj
  rw [Memory.read_writeVec]
  by_cases hin : 16 + 4 * k ≤ 4 * w + j ∧ 4 * w + j < 16 + 4 * k + 4
  · have e : w = k + 4 := by omega
    subst e
    rw [dif_pos hin]
    congr 2
    omega
  · rw [dif_neg hin]
    exact h w (by omega) j hj

/-- The loop from position `16 + 4*k` on, over `n` positions. -/
theorem kexpLoop_from (key : Block) (n : Nat) : ∀ (k : Nat) (rk : Memory),
    HoldsSchedule rk key (k + 4) →
    ∃ rk', kexpLoop ((List.range' k n).map fun i => 16 + 4 * i) rk = some rk' ∧
      HoldsSchedule rk' key (k + 4 + n) ∧
      (∀ y, y < 16 + 4 * k ∨ 16 + 4 * (k + n) ≤ y → rk'.read y = rk.read y) ∧
      (rk.wf = true → 16 + 4 * (k + n) ≤ Config.rkBytes → rk'.wf = true) := by
  induction n with
  | zero => intro k rk h; exact ⟨rk, rfl, h, fun _ _ => rfl, fun hw _ => hw⟩
  | succ n ih =>
    intro k rk h
    obtain ⟨rk', e, hs, hf, hw⟩ := ih (k + 1) _ (by
      have h1 := h.write
      rwa [show k + 5 = k + 1 + 4 by omega] at h1)
    refine ⟨rk', ?_, ?_, ?_, ?_⟩
    · rw [List.range'_succ, List.map_cons, kexpLoop, kexpWord_step h]
      exact e
    · rwa [show k + 4 + (n + 1) = k + 1 + 4 + n by omega]
    · intro y hy
      rw [hf y (by omega), Memory.read_writeVec, dif_neg (by omega)]
    · intro hm hle
      exact hw (Memory.wf_writeVec _ hm (by omega)) (by omega)

/-- The key itself is the first four words of its schedule (R157). -/
theorem HoldsSchedule.writeKey (rk : Memory) (key : Block) :
    HoldsSchedule (rk.writeVec 0 key) key 4 := by
  intro w hw j hj
  rw [Memory.read_writeVec, dif_pos (by omega)]
  congr 1
  have h : ∀ w, w < 4 → ∀ j (hj : j < 4), ∀ h', key[4 * w + j - 0]'h' = (scheduleWord key w)[j] := by
    intro w hw j hj h'
    interval_cases w <;> interval_cases j <;> rfl
  exact h w hw j hj (by omega)

/-- All that the loop of KEXP does: it completes, every byte of RK is the schedule's, no address beyond RK changes, and
the canonical form is kept. -/
theorem kexpLoop_spec (rk : Memory) (key : Block) :
    ∃ rk', kexpLoop kexpPositions (rk.writeVec 0 key) = some rk' ∧
      HoldsSchedule rk' key 44 ∧
      (∀ y, Config.rkBytes ≤ y → rk'.read y = rk.read y) ∧
      (rk.wf = true → rk'.wf = true) := by
  obtain ⟨rk', e, hs, hf, hw⟩ := kexpLoop_from key 40 0 _ (HoldsSchedule.writeKey rk key)
  refine ⟨rk', ?_, hs, ?_, ?_⟩
  · rw [kexpPositions, List.range_eq_range']
    exact e
  · intro y hy
    have h1 : 176 ≤ y := hy
    rw [hf y (by omega), Memory.read_writeVec, dif_neg (by omega)]
  · intro hm
    exact hw (Memory.wf_writeVec key hm (by decide)) (by decide)

/-- A memory that holds the whole schedule is written throughout. -/
theorem HoldsSchedule.covers {rk : Memory} {key : Block} (h : HoldsSchedule rk key 44) :
    rk.covers 0 Config.rkBytes = true := by
  rw [Memory.covers_iff]
  intro i hi
  have h1 : i < 176 := hi
  have h2 := h (i / 4) (by omega) (i % 4) (by omega)
  rw [show 4 * (i / 4) + i % 4 = 0 + i by omega] at h2
  rw [h2]
  rfl

/-- A memory that holds the whole schedule gives round key `r` at `16*r` (R51). -/
theorem HoldsSchedule.readRoundKey {rk : Memory} {key : Block} (h : HoldsSchedule rk key 44) {r : Nat}
    (hr : r ≤ 10) : rk.readVec (16 * r) 16 = some (roundKey key r) := by
  rw [Memory.readVec_eq_some_iff]
  intro i hi
  have h2 := h (4 * r + i / 4) (by omega) (i % 4) (by omega)
  rw [show 4 * (4 * r + i / 4) + i % 4 = 16 * r + i by omega] at h2
  rw [h2, roundKey, Vector.getElem_ofFn]

end Sys2Proof.Machine
end

