-- ==== Sys2Proof/Laws/Ops.lean ====
section
/-! SUPPORT. What each shared operation and each meaning can answer, said once; later proofs cite these and unfold
nothing. -/

namespace Sys2Proof.Machine

/-- A transform answers a next state exactly when `S` is written, and then this one. -/
theorem transform_eq_next_iff (f : Block → Block) (s t : State) :
    transform f s = .next t ↔ s.S.written = true ∧ t = (s.writeS (f s.S.bytes)).nextUpc := by
  unfold transform Store.read
  by_cases h : s.S.written = true
  · simp [h, eq_comm]
  · simp [h]

theorem transform_of_written (f : Block → Block) {s : State} (h : s.S.written = true) :
    transform f s = .next (s.writeS (f s.S.bytes)).nextUpc :=
  (transform_eq_next_iff f s _).2 ⟨h, rfl⟩

theorem transform_of_unwritten (f : Block → Block) {s : State} (h : s.S.written = false) :
    transform f s = .fault .unwrittenRead := by
  simp [transform, Store.read, h]

theorem execLds_eq_next_iff (s t : State) :
    execLds s = .next t ↔ s.DIN.written = true ∧ t = (s.writeS s.DIN.bytes).nextUpc := by
  unfold execLds Store.read
  by_cases h : s.DIN.written = true
  · simp [h, eq_comm]
  · simp [h]

theorem execOut_eq_next_iff (s t : State) :
    execOut s = .next t ↔ s.S.written = true ∧ t = (s.writeDOUT s.S.bytes).markDone := by
  unfold execOut Store.read
  by_cases h : s.S.written = true
  · simp [h, eq_comm]
  · simp [h]

theorem execArk_eq_next_iff (rnd : BitVec 4) (s t : State) :
    execArk rnd s = .next t ↔
      legalRound rnd = true ∧ ∃ k, s.RK.readVec (roundKeyAddr rnd) 16 = some k ∧
        s.S.written = true ∧ t = (s.writeS (xorBytes s.S.bytes k)).nextUpc := by
  unfold execArk
  by_cases hr : legalRound rnd = true
  · rw [if_pos hr]
    cases hk : s.RK.readVec (roundKeyAddr rnd) 16 with
    | none => simp
    | some k => simp [hr, transform_eq_next_iff]
  · rw [if_neg hr]
    simp [hr]

/-- KEXP answers a next state exactly when `K` is written; then `RK` is what the loop makes of it. -/
theorem execKexp_eq_next_iff (s t : State) :
    execKexp s = .next t ↔
      s.K.written = true ∧ ∃ rk, kexpLoop kexpPositions (s.RK.writeVec 0 s.K.bytes) = some rk ∧
        t = (s.writeRK rk).nextUpc := by
  unfold execKexp
  by_cases h : s.K.written = true
  · have hk : s.K.read = some s.K.bytes := (Store.read_eq_some_iff _ _).2 ⟨h, rfl⟩
    obtain ⟨rk, e, _⟩ := kexpLoop_spec s.RK s.K.bytes
    simp [hk, e, h, eq_comm]
  · have hk : s.K.read = none := (Store.read_eq_none_iff _).2 (by simpa using h)
    simp [hk, h]

/-- A request answers a next state in each of its three cases (R171, R173, R202), and never stops. -/
theorem acceptRequest_eq (op : BitVec 1) (dl kl : Byte) (d k : Block) (s : State) :
    acceptRequest op dl kl d k s =
      .next (if s.BUSY then s
             else if lengthsOk dl kl then (s.writeRequest d k).markRunning op (startAddr op)
             else raiseInvalidLength s) := by
  unfold acceptRequest
  split
  · rfl
  · split <;> rfl

/-- The lengths a request must state (R201). -/
theorem lengthsOk_iff (dl kl : Byte) : lengthsOk dl kl = true ↔ dl = 16 ∧ kl = 16 :=
  decide_eq_true_iff

/-- The round numbers a micro-op word can carry legally (R85). -/
theorem legalRound_iff (rnd : BitVec 4) : legalRound rnd = true ↔ rnd.toNat ≤ 10 :=
  decide_eq_true_iff

/-- The four cases of a step that answers a next state (R209). -/
theorem step_next_cases {s t : State} (h : step s = .next t) :
    (s.sample.rst = true ∧ t = resetStep s.advance) ∨
    (s.sample.rst = false ∧ s.BUSY = true ∧
      ∃ i, decodeUop (fetch uromImage s.UPC) = .ok i ∧ exec i s.advance = .next t) ∨
    (s.sample.rst = false ∧ s.BUSY = false ∧ s.sample.reqValid = true ∧
      exec (decodeCmd s.sample.cmd) s.advance = .next t) ∨
    (s.sample.rst = false ∧ s.BUSY = false ∧ s.sample.reqValid = false ∧ t = s.advance) := by
  unfold step stepWith at h
  by_cases hr : s.sample.rst = true
  · rw [if_pos hr] at h
    cases h
    exact .inl ⟨hr, rfl⟩
  · have hr' : s.sample.rst = false := by simpa using hr
    rw [if_neg hr] at h
    by_cases hb : s.BUSY = true
    · rw [if_pos hb, microStep, State.advance_UPC] at h
      cases hd : decodeUop (fetch uromImage s.UPC) with
      | ok i =>
        rw [hd] at h
        exact .inr (.inl ⟨hr', hb, i, rfl, h⟩)
      | error e =>
        rw [hd] at h
        cases h
    · have hb' : s.BUSY = false := by simpa using hb
      rw [if_neg hb] at h
      by_cases hq : s.sample.reqValid = true
      · rw [if_pos hq] at h
        exact .inr (.inr (.inl ⟨hr', hb', hq, h⟩))
      · rw [if_neg hq] at h
        cases h
        exact .inr (.inr (.inr ⟨hr', hb', by simpa using hq, rfl⟩))

/-- A decoded micro-op word is one of the ten micro-ops, never a command. -/
theorem decodeUop_not_command {w : Byte} {i : Instr} (h : decodeUop w = .ok i) :
    i.isCommand = false := by
  unfold decodeUop at h
  split at h <;> first
    | (unfold decodePlain at h; split at h <;> cases h; rfl)
    | (unfold decodeArk at h; split at h <;> cases h; rfl)
    | cases h

end Sys2Proof.Machine
end

