-- ==== Sys2Proof/Laws/PerInstr.lean ====
section
/-! SUPPORT. A family of statements about each instruction as syntax, one lemma per constructor: bit 7 of a micro-op
word is set exactly in the three inverse transforms (30_encoding.md R84). -/

namespace Sys2Proof.Laws.InverseBit

/-- Bit 7 of the instruction's word, if it is a micro-op, marks an inverse transform (R84). -/
def Statement (i : Instr) : Prop := ∀ w, encode i = .uop w → w.getLsbD 7 = i.isInverse

theorem lds : Statement .lds := by intro w h; cases h; rfl
theorem kexp : Statement .kexp := by intro w h; cases h; rfl
theorem ark (rnd : BitVec 4) : Statement (.ark rnd) := by
  intro w h
  cases h
  revert rnd
  decide
theorem sub : Statement .sub := by intro w h; cases h; rfl
theorem shr : Statement .shr := by intro w h; cases h; rfl
theorem mix : Statement .mix := by intro w h; cases h; rfl
theorem out : Statement .out := by intro w h; cases h; rfl
theorem isub : Statement .isub := by intro w h; cases h; rfl
theorem ishr : Statement .ishr := by intro w h; cases h; rfl
theorem imix : Statement .imix := by intro w h; cases h; rfl
theorem encrypt (dataLen keyLen : Byte) (data key : Block) :
    Statement (.encrypt dataLen keyLen data key) := by intro w h; cases h
theorem decrypt (dataLen keyLen : Byte) (data key : Block) :
    Statement (.decrypt dataLen keyLen data key) := by intro w h; cases h

end Sys2Proof.Laws.InverseBit
end

