-- ==== Sys2Proof/Laws/Run.lean ====
section
/-! SUPPORT. One step of a command in progress, said once: which of the four kinds of micro-op it is, by how far the run
has come, and the state it answers (46_cipher_controller.md R174, R177, R178, R184). -/

namespace Sys2Proof.Machine

/-- The micro-ops between KEXP and OUT. -/
def isRoundOp : Instr → Bool
  | .ark r => decide (r.toNat ≤ 10)
  | .sub | .shr | .mix | .isub | .ishr | .imix => true
  | .lds | .kexp | .out => false
  | .encrypt _ _ _ _ | .decrypt _ _ _ _ => false

/-- What stands at an address of `UROM`: LDS first, KEXP second, OUT last, round operations between. -/
def programShape (a : Nat) : Bool :=
  match decodeUop (uromImage.getD a 0) with
  | .ok i =>
    if a % 64 = 0 then i == .lds
    else if a % 64 = 1 then i == .kexp
    else if a % 64 = 42 then i == .out
    else isRoundOp i
  | .error _ => false

theorem programShape_all : ∀ a, a < 128 → a % 64 ≤ 42 → programShape a = true := by decide +kernel

theorem startAddr_toNat : ∀ op : BitVec 1, (startAddr op).toNat = 64 * op.toNat := by decide

/-- A round operation completes when `S` and the whole schedule are written, and writes `S` alone. -/
theorem exec_of_isRoundOp {i : Instr} {s : State} (h : isRoundOp i = true)
    (hS : s.S.written = true) (hR : s.RK.covers 0 Config.rkBytes = true) :
    ∃ b, exec i s = .next (s.writeS b).nextUpc := by
  cases i <;> simp only [isRoundOp, decide_eq_true_eq, Bool.false_eq_true] at h
  case ark r =>
    have hc : s.RK.covers (16 * r.toNat) 16 = true :=
      Memory.covers_mono hR (Nat.zero_le _) (by show 16 * r.toNat + 16 ≤ 0 + 176; omega)
    obtain ⟨v, hv⟩ := Memory.exists_readVec hc
    exact ⟨_, (execArk_eq_next_iff r s _).2 ⟨(legalRound_iff r).2 h, v, hv, hS, rfl⟩⟩
  all_goals exact ⟨_, transform_of_written _ hS⟩

/-- The four kinds of step of a command in progress that is not reset. -/
theorem step_of_inRun {s : State} (h : s.InRun) (hb : s.BUSY = true) (hr : s.sample.rst = false) :
    (s.offset = 0 ∧ step s = .next (s.advance.writeS s.DIN.bytes).nextUpc) ∨
    (s.offset = 1 ∧ ∃ rk, step s = .next (s.advance.writeRK rk).nextUpc ∧
      HoldsSchedule rk s.K.bytes 44 ∧ (s.RK.wf = true → rk.wf = true)) ∨
    (2 ≤ s.offset ∧ s.offset < 42 ∧ ∃ i b, decodeUop (fetch uromImage s.UPC) = .ok i ∧
      isRoundOp i = true ∧ exec i s.advance = .next (s.advance.writeS b).nextUpc ∧
      step s = .next (s.advance.writeS b).nextUpc) ∨
    (s.offset = 42 ∧ step s = .next (s.advance.writeDOUT s.S.bytes).markDone) := by
  have h1 := h.fromStart
  have h2 := h.toOut
  rw [startAddr_toNat] at h1 h2
  have ho : s.UPC.toNat = 64 * s.OP.toNat + s.offset := by
    rw [State.offset, startAddr_toNat]
    omega
  have hop : s.OP.toNat < 2 := s.OP.isLt
  have hm : s.UPC.toNat % 64 = s.offset := by omega
  have ha := programShape_all s.UPC.toNat (by omega) (by omega)
  rw [programShape, hm] at ha
  have hs : step s = microStep uromImage s.advance := by simp [step, stepWith, hr, hb]
  rw [microStep, State.advance_UPC, fetch] at hs
  rw [fetch]
  cases hd : decodeUop (uromImage.getD s.UPC.toNat 0) with
  | error e =>
    rw [hd] at ha
    cases ha
  | ok i =>
    rw [hd] at ha hs
    simp only at ha hs
    split at ha
    · refine .inl ⟨‹_›, ?_⟩
      rw [hs, eq_of_beq ha]
      exact (execLds_eq_next_iff _ _).2 ⟨h.din, rfl⟩
    · split at ha
      · obtain ⟨rk, e, hk, _, hw⟩ := kexpLoop_spec s.RK s.K.bytes
        refine .inr (.inl ⟨‹_›, rk, ?_, hk, hw⟩)
        rw [hs, eq_of_beq ha]
        exact (execKexp_eq_next_iff _ _).2 ⟨h.key, rk, e, rfl⟩
      · split at ha
        · refine .inr (.inr (.inr ⟨‹_›, ?_⟩))
          rw [hs, eq_of_beq ha]
          exact (execOut_eq_next_iff _ _).2 ⟨h.working (by omega), rfl⟩
        · obtain ⟨b, e⟩ := exec_of_isRoundOp (s := s.advance) ha (h.working (by omega))
            (h.schedule (by omega))
          exact .inr (.inr (.inl ⟨by omega, by omega, i, b, rfl, ha, e, by rw [hs, e]⟩))

/-- A run goes on: a state one micro-op further, with what that micro-op needs, is again in the run. -/
theorem inRun_of_nextUpc {s t : State} (h : s.InRun) (hop : t.OP = s.OP) (hu : t.UPC = s.UPC + 1)
    (ho : s.offset < 42) (hv : t.RSP_VALID = false) (hd : t.DIN.written = true)
    (hk : t.K.written = true) (hS : t.S.written = true)
    (hR : 2 ≤ s.offset + 1 → t.RK.covers 0 Config.rkBytes = true) :
    t.InRun ∧ t.offset = s.offset + 1 := by
  have h1 := h.fromStart
  have h2 := h.toOut
  have hb : s.OP.toNat < 2 := s.OP.isLt
  rw [State.offset] at ho
  have hu' : t.UPC.toNat = s.UPC.toNat + 1 := by
    rw [startAddr_toNat] at *
    rw [hu, BitVec.toNat_add]
    simp
    omega
  have e : t.offset = s.offset + 1 := by
    simp only [State.offset, hop]
    omega
  exact ⟨⟨hv, by rw [hop]; omega, by rw [hop]; omega, hd, hk, fun _ => hS, fun h => hR (by omega)⟩, e⟩

/-- Quiet steps to come: none at this one, and quiet afterwards. -/
theorem State.quiet_succ {s : State} {k : Nat} (h : s.quiet (k + 1)) :
    s.sample.rst = false ∧ s.advance.quiet k := by
  constructor
  · have h1 := h 0 (by omega)
    rw [State.sampleAt] at h1
    rw [State.sample]
    cases hs : s.inputs with
    | nil => rfl
    | cons p ps => simpa [hs] using h1
  · intro i hi
    have h1 := h (i + 1) (by omega)
    rw [State.sampleAt] at h1 ⊢
    cases hs : s.inputs with
    | nil => simp [State.advance, hs, restPorts]
    | cons p ps => simpa [State.advance, hs] using h1

/-- Quiet depends on the port samples alone. -/
theorem State.quiet_of_inputs_eq {s t : State} {k : Nat} (e : t.inputs = s.inputs) (h : s.quiet k) :
    t.quiet k := by
  intro i hi
  have h1 := h i hi
  rw [State.sampleAt] at h1 ⊢
  rwa [e]

/-- A run of one step more. -/
theorem run_succ_of_next {s t : State} {k : Nat} (h : step s = .next t) : run (k + 1) s = run k t := by
  simp [run, h]

end Sys2Proof.Machine
end

