-- ==== Sys2Proof/Tests/Slice0.lean ====
section
/-! SUPPORT. The author's own tests: ill-formed terms refused, each word decoded from its bits in the spec, one or two
steps per instruction against the vectors of 95_test_vectors.md, and a witness for the hypotheses of each statement. -/

namespace Sys2Proof.Tests

open Sys2Proof.Machine

/-- A block from its hex string read as one number (R9, R54). -/
def blk (n : Nat) : Block := unpackLanes (BitVec.ofNat 128 n)

/-- A reset state but for a written working state. -/
def withS (n : Nat) : State := { State.reset with S := Store.put (blk n) }

/-- The working state of a next state, as one number. -/
def sOf : Result → Option Nat
  | .next t => if t.S.written then some (packLanes t.S.bytes).toNat else none
  | .fault _ | .refused _ => none

/-- The output block of a next state, as one number. -/
def doutOf : Result → Option Nat
  | .next t => if t.DOUT.written then some (packLanes t.DOUT.bytes).toNat else none
  | .fault _ | .refused _ => none

/-- The control registers of a next state: OP, UPC, BUSY, RSP_VALID, RSP_STATUS. -/
def ctlOf : Result → Option (Nat × Nat × Bool × Bool × Nat)
  | .next t => some (t.OP.toNat, t.UPC.toNat, t.BUSY, t.RSP_VALID, t.RSP_STATUS.toNat)
  | .fault _ | .refused _ => none

/-- The fault of a stopped step. -/
def faultOf : Result → Option Fault
  | .fault f => some f
  | .next _ | .refused _ => none

/-- A step answered a next state. -/
def isNext : Result → Bool
  | .next _ => true
  | .fault _ | .refused _ => false

/-- The micro-op a word decodes to. -/
def uop (w : Byte) : Option Instr := (decodeUop w).toOption

/-! ### Well-formedness: an ill-formed term for the one check (R85) -/

theorem test_wf_refuses_round_11 : (Instr.ark 11).wf = false := by decide
theorem test_wf_refuses_round_15 : (Instr.ark 15).wf = false := by decide
theorem test_wf_accepts_round_10 : (Instr.ark 10).wf = true := by decide

/-! ### Words written out bit by bit from R84 and R87 -/

theorem test_decode_lds : uop 0b00010000 = some .lds := by decide
theorem test_decode_kexp : uop 0b00100000 = some .kexp := by decide
theorem test_decode_ark_0 : uop 0b00110000 = some (.ark 0) := by decide
theorem test_decode_ark_9 : uop 0b00111001 = some (.ark 9) := by decide
theorem test_decode_sub : uop 0b01000000 = some .sub := by decide
theorem test_decode_shr : uop 0b01010000 = some .shr := by decide
theorem test_decode_mix : uop 0b01100000 = some .mix := by decide
theorem test_decode_out : uop 0b01110000 = some .out := by decide
theorem test_decode_isub : uop 0b11000000 = some .isub := by decide
theorem test_decode_ishr : uop 0b11010000 = some .ishr := by decide
theorem test_decode_imix : uop 0b11100000 = some .imix := by decide
/-- 95 section 2.8: 0x3B, 0x41, 0x00, 0x80 and 0xFF are illegal, each by its own case of R89. -/
theorem test_decode_illegal :
    decodeUop 0x3B = .error (.roundTooLarge 11) ∧ decodeUop 0x41 = .error (.operandNotZero 4 1) ∧
    decodeUop 0x00 = .error (.illegalOpc 0) ∧ decodeUop 0x80 = .error (.illegalOpc 8) ∧
    decodeUop 0xFF = .error (.illegalOpc 15) := by decide
/-- R82 and R54: `req_op` 0 with lane 15 of the data 0xFF. -/
theorem test_decode_encrypt :
    decodeCmd ⟨0, 16, 15, 0x00112233445566778899aabbccddeeff, 0⟩ =
      .encrypt 16 15
        #v[0x00, 0x11, 0x22, 0x33, 0x44, 0x55, 0x66, 0x77, 0x88, 0x99, 0xaa, 0xbb, 0xcc, 0xdd, 0xee, 0xff]
        zeroBlock := by decide
theorem test_decode_decrypt : decodeCmd ⟨1, 17, 16, 0, 0⟩ = .decrypt 17 16 zeroBlock zeroBlock := by decide
theorem test_table_words :
    decodeTableWord 8 0x3A = some (.ark 10) ∧ decodeTableWord 8 0x3B = none ∧
    decodeTableWord 8 0 = some (.encrypt 0 0 zeroBlock zeroBlock) ∧
    decodeTableWord 1 1 = some (.decrypt 0 0 zeroBlock zeroBlock) := by decide

/-! ### Field arithmetic (95 section 2.1) -/

theorem test_xtime : xtime 0x7F = 0xFE ∧ xtime 0x80 = 0x1B ∧ xtime 0xFF = 0xE5 := by decide
theorem test_gmul : gmul 0x57 0x83 = 0xC1 ∧ gmul 0x0E 0xDB = 0x6E ∧ gmul 0xFF 0xFF = 0x13 := by decide

/-! ### The micro-ops, one step each -/

/-- Program P1, step 1. -/
theorem test_lds :
    sOf (exec .lds { State.reset with DIN := Store.put (blk 0x00112233445566778899aabbccddeeff) }) =
      some 0x00112233445566778899aabbccddeeff := by decide
/-- R207: reading an unwritten `DIN` is the model fault. -/
theorem test_lds_unwritten : faultOf (exec .lds State.reset) = some .unwrittenRead := by decide
/-- Program P1, step 4. -/
theorem test_sub : sOf (exec .sub (withS 0x00102030405060708090a0b0c0d0e0f0)) =
    some 0x63cab7040953d051cd60e0e7ba70e18c := by decide
/-- 95 section 2.2, last row. -/
theorem test_isub : sOf (exec .isub (withS 0x0123456789abcdeffedcba9876543210)) =
    some 0x0932680af20e80610c93c0e20ffda17c := by decide
/-- 95 section 2.3, row 1. -/
theorem test_shr : sOf (exec .shr (withS 0x000102030405060708090a0b0c0d0e0f)) =
    some 0x00050a0f04090e03080d02070c01060b := by decide
/-- 95 section 2.3, row 1: with the source's wrong text for row 3 (C1) this fails. -/
theorem test_ishr : sOf (exec .ishr (withS 0x000102030405060708090a0b0c0d0e0f)) =
    some 0x000d0a0704010e0b0805020f0c090603 := by decide
/-- 95 section 2.4, row 1. -/
theorem test_mix : sOf (exec .mix (withS 0xdb135345f20a225c01010101c6c6c6c6)) =
    some 0x8e4da1bc9fdc589d01010101c6c6c6c6 := by decide
/-- 95 section 2.4, row 4: the columns of the inverse matrix. -/
theorem test_imix : sOf (exec .imix (withS 0x01000000000100000000010000000001)) =
    some 0x0e090d0b0b0e090d0d0b0e09090d0b0e := by decide

/-- A round key at `16*r` and a working state. -/
def withRoundKey (r s k : Nat) : State :=
  { withS s with RK := Memory.writeVec [] (16 * r) (blk k) }

/-- Program P1, step 7: `ARK 1`. -/
theorem test_ark_1 :
    sOf (exec (.ark 1)
      (withRoundKey 1 0x5f72641557f5bc92f7be3b291db9f91a 0xd6aa74fdd2af72fadaa678f1d6ab76fe)) =
      some 0x89d810e8855ace682d1843d8cb128fe4 := by decide
/-- P5b and R89: an unwritten round key, and a round-key number above 10. -/
theorem test_ark_faults :
    faultOf (exec (.ark 0) (withS 0)) = some .unwrittenRead ∧
    faultOf (exec (.ark 11) (withRoundKey 11 0 0)) = some .illegalUop := by decide

/-- The bytes of RK at `16` to `16 + n - 1` in a next state. -/
def rkBytesOf (a n : Nat) : Result → List (Option Byte)
  | .next t => (List.range n).map fun i => t.RK.read (a + i)
  | .fault _ | .refused _ => []

/-- 95 section 2.6: word 4 and the last word of the schedule of the known-answer key. -/
theorem test_kexp_word_4 :
    rkBytesOf 16 4
      (exec .kexp { State.reset with K := Store.put (blk 0x000102030405060708090a0b0c0d0e0f) }) =
      [some 0xd6, some 0xaa, some 0x74, some 0xfd] := by decide +kernel
/-- The closed form of R157 gives round key 10 of the third schedule of 95 section 2.6. -/
theorem test_round_key_10 :
    packLanes (roundKey (blk 0x2b7e151628aed2a6abf7158809cf4f3c) 10) =
      0xd014f9a8c9ee2589e13f0cc8b6630ca6 := by decide +kernel
/-- R176 and program P1, step 43. -/
theorem test_out :
    doutOf (exec .out (withS 0x69c4e0d86a7b0430d8cdb78070b4c55a)) =
      some 0x69c4e0d86a7b0430d8cdb78070b4c55a ∧
    ctlOf (exec .out { withS 0 with UPC := 0x2A, BUSY := true }) = some (0, 0x2A, false, true, 0) := by
  decide

/-! ### The commands and the step (95 section 2.9) -/

/-- A request with all-zero lanes. -/
def ask (op : BitVec 1) (dl kl : Byte) : Cmd := ⟨op, dl, kl, 0, 0⟩

/-- An idle controller about to see a request. -/
def asking (c : Cmd) : State := State.reset.aboutToAccept c

/-- Line 6: a valid `ENCRYPT` clears RSP_VALID and keeps the status register. -/
theorem test_encrypt_valid :
    ctlOf (step { asking (ask 0 16 16) with RSP_VALID := true, RSP_STATUS := 1 }) =
      some (0, 0x00, true, false, 1) := by decide
/-- Line 4: length 255. -/
theorem test_encrypt_wrong_length : ctlOf (step (asking (ask 0 255 16))) = some (0, 0, false, true, 1) := by
  decide
theorem test_decrypt_valid : ctlOf (step (asking (ask 1 16 16))) = some (1, 0x40, true, false, 0) := by decide
/-- Line 2: a 17-byte key. -/
theorem test_decrypt_wrong_length : ctlOf (step (asking (ask 1 16 17))) = some (0, 0, false, true, 1) := by
  decide
/-- Line 7: `UPC = 0x10` is SHR, and the request on the ports is ignored. -/
theorem test_busy_ignores_request :
    ctlOf (step { withS 0 with UPC := 0x10, BUSY := true, inputs := [⟨false, true, ask 1 16 16⟩] }) =
      some (0, 0x11, true, false, 0) := by decide
/-- Lines 8 and 10: reset wins over a running command and over a request. -/
theorem test_reset_wins :
    ctlOf (step { withS 0 with OP := 1, UPC := 0x15, BUSY := true, RSP_STATUS := 1,
                               inputs := [⟨true, true, ask 0 16 16⟩] }) =
      some (0, 0, false, false, 0) := by decide
/-- Line 9: nothing happens without a request. -/
theorem test_idle : step State.reset = .next State.reset := rfl
/-- P5a: an illegal word in a ROM given as a parameter. -/
theorem test_illegal_word :
    faultOf (stepWith [0x10, 0x00] { withS 0 with UPC := 0x01, BUSY := true }) = some .illegalUop ∧
    faultOf (stepWith [0x10, 0x41] { withS 0 with UPC := 0x01, BUSY := true }) = some .illegalUop := by decide
/-- P5b: ARK before KEXP, SUB before LDS and OUT before LDS, in a ROM given as a parameter. -/
theorem test_unwritten_read :
    faultOf (stepWith [0x10, 0x30, 0x70] { withS 0 with UPC := 0x01, BUSY := true }) = some .unwrittenRead ∧
    faultOf (stepWith [0x40] { State.reset with BUSY := true }) = some .unwrittenRead ∧
    faultOf (stepWith [0x70] { State.reset with BUSY := true }) = some .unwrittenRead := by decide
/-- R177, R178: the first, middle and last words of the two programs. -/
theorem test_rom_words :
    fetch uromImage 0x26 = 0x39 ∧ fetch uromImage 0x2A = 0x70 ∧ fetch uromImage 0x2B = 0x00 ∧
    fetch uromImage 0x42 = 0x3A ∧ fetch uromImage 0x46 = 0xE0 ∧ fetch uromImage 0x6A = 0x70 := by decide
/-- A placed word is the one the next step runs. -/
theorem test_with_fetch_word :
    isNext (step (State.reset.withFetchWord 8 0xE0)) = true ∧
    ctlOf (step (State.reset.withFetchWord 8 1)) = some (0, 0, false, true, 1) ∧
    faultOf (step (State.reset.withFetchWord 8 0x3B)) = some .illegalUop := by decide +kernel
/-- The known-answer test of the source, on the function of R180. -/
theorem test_encrypt_known_answer :
    packLanes (encryptBlock (blk 0x00112233445566778899aabbccddeeff) (blk 0x000102030405060708090a0b0c0d0e0f)) =
      0x69c4e0d86a7b0430d8cdb78070b4c55a := by decide +kernel

/-! ### Written forms -/

/-- R93: the spec's own listing line. -/
theorem test_listing_line : listingText 0x06 0x31 (.ark 1) =
    ['0', 'x', '0', '6', ':', ' ', '0', 'x', '3', '1', ' ', ' ', 'A', 'R', 'K', ' ', '1'] := by decide
theorem test_ark_10_text : uopText (.ark 10) = ['A', 'R', 'K', ' ', '1', '0'] := by decide
/-- R96: a buffer of two bytes, and the error response. -/
theorem test_host_line : hostText 1 [0x0a, 0xf9] [] =
    ['D', 'E', 'C', 'R', 'Y', 'P', 'T', ' ', 'd', 'a', 't', 'a', '=', '0', 'a', 'f', '9', ' ', 'k', 'e', 'y',
     '='] := by decide
/-- R93: a listing line with a comment. -/
theorem test_parse_line : parseUop (listingText 0x29 0x3A (.ark 10) ++ [' ', ' ', ';', 'x']) = some (.ark 10) := by
  decide
/-- R96: one byte and no byte, read back from the host line. -/
theorem test_parse_host : parseHost (hostText 1 [0xf0] []) = some (requestOf 1 [0xf0] []) := by decide
/-- P4, action 9: 15 bytes and 17 bytes make one InvalidLength. -/
theorem test_wrong_buffers :
    respond (requestOf 0 (List.replicate 15 0) (List.replicate 17 0)) = .err .invalidLength := by
  decide +kernel

/-! ### Witnesses: states and operands that meet the hypotheses of the statements -/

/-- A command in progress at an address, every store written. -/
def running (addr : BitVec 7) : State := State.reset.aboutToFetch addr

theorem witness_DecodeEncodeRoundTrip :
    (Instr.ark 10).wf = true ∧ (Instr.decrypt 15 17 zeroBlock zeroBlock).wf = true := by decide
theorem witness_EncodeDecodeRoundTrip :
    decode (.uop 0x3A) = .ok (.ark 10) ∧
    decode (.cmd (ask 1 16 15)) = .ok (.decrypt 16 15 zeroBlock zeroBlock) := by decide
theorem witness_UopWordsDecodeAsTabled : (0x3B : Byte) ∉
    ([0x10, 0x20, 0x30, 0x31, 0x32, 0x33, 0x34, 0x35, 0x36, 0x37, 0x38, 0x39, 0x3A, 0x40, 0x50, 0x60,
      0x70, 0xC0, 0xD0, 0xE0] : List Byte) := by decide
theorem witness_IllegalWordsFault :
    (uop (fetch [0x3B] State.reset.UPC)).isNone = true ∧ (0x2A ≤ 0x2A) ∧ (0x40 ≤ 0x6A ∧ 0x6A ≤ 0x6A) ∧
    (0x2B ≤ 0x3F ∧ 0x3F ≤ 0x3F) ∧ (0x6B ≤ 0x7F ∧ 0x7F ≤ 0x7F) := by decide
theorem witness_RomHoldsTheListings : (42 : Nat) < 43 := by decide
theorem witness_RoundPhaseViewAgrees :
    ((0x03 ≤ 0x29 ∧ 0x29 ≤ 0x29) ∨ (0x43 ≤ 0x29 ∧ 0x29 ≤ 0x69)) ∧ roundPhaseInstr 0x29 = some (.ark 10) ∧
    roundPhaseInstr 0x43 = some .ishr ∧ roundPhaseInstr 0x69 = some (.ark 0) := by decide
theorem witness_BuffersBecomeRequests : (List.replicate 15 (0 : Byte)).length ≠ 16 ∧
    (List.replicate 17 (0 : Byte)).length ≠ 16 ∧ (List.replicate 272 (0 : Byte)).length ≠ 16 := by
  simp only [List.length_replicate]
  decide
theorem witness_WrittenFormsAreReadBack : (Instr.ark 10).wf = true ∧ (Instr.ark 10).isCommand = false := by
  decide
theorem witness_StepRunsDecodedMicroOp :
    (running 0x2A).sample.rst = false ∧ (running 0x2A).BUSY = true ∧
    uop (fetch uromImage (running 0x2A).UPC) = some .out ∧
    decodeUop (fetch uromImage (running 0x2B).UPC) = .error (.illegalOpc 0) := by decide +kernel
theorem witness_StepAcceptsRequestWhenIdle :
    (asking (ask 0 16 16)).sample.rst = false ∧ (asking (ask 0 16 16)).BUSY = false ∧
    (asking (ask 0 16 16)).sample.reqValid = true ∧ State.reset.sample.reqValid = false := by decide

/-- A running command that is reset at this step and at the next. -/
def resetting : State :=
  { running 0x15 with inputs := [⟨true, true, ask 0 16 16⟩, ⟨true, false, ask 0 0 0⟩] }

theorem witness_ResetStepEffect :
    resetting.sample.rst = true ∧ (resetStep resetting.advance).sample.rst = true := by decide +kernel
theorem witness_ResetAbandonsCommand :
    resetting.sample.rst = true ∧ (resetting.sampleAt 1).reqValid = false ∧
    (resetting.sampleAt 2).reqValid = false := by decide +kernel
theorem witness_BusyIgnoresRequest :
    (running 0x10).BUSY = true ∧ (restPorts).rst = (Ports.mk false true (ask 0 16 16)).rst ∧
    (Ports.mk true true (ask 0 16 16)).rst = true := by decide +kernel
theorem witness_CommandsAcceptValidLengths : State.reset.BUSY = false := by decide
theorem witness_CommandsRefuseWrongLengths :
    State.reset.BUSY = false ∧ (15 : Byte) ≠ 16 ∧ (17 : Byte) ≠ 16 ∧ (0 : Byte) ≠ 16 := by decide
theorem witness_AcceptStepValidLengths :
    (asking (ask 1 16 16)).sample.rst = false ∧ (asking (ask 1 16 16)).BUSY = false ∧
    (asking (ask 1 16 16)).sample.reqValid = true ∧ (asking (ask 1 16 16)).sample.cmd.dataLen = 16 ∧
    (asking (ask 1 16 16)).sample.cmd.keyLen = 16 := by decide
theorem witness_AcceptStepInvalidLength :
    (asking (ask 1 16 17)).sample.rst = false ∧ (asking (ask 1 16 17)).BUSY = false ∧
    (asking (ask 1 16 17)).sample.reqValid = true ∧
    ((asking (ask 1 16 17)).sample.cmd.dataLen ≠ 16 ∨ (asking (ask 1 16 17)).sample.cmd.keyLen ≠ 16) := by
  decide
/-- For LdsCopiesInput: both clauses. -/
theorem witness_LdsCopiesInput : (running 0).DIN.written = true ∧ State.reset.DIN.written = false := by
  decide +kernel
/-- For the statements about SUB, ISUB, SHR, ISHR, MIX, IMIX and OUT: both clauses, and the last column. -/
theorem witness_working_state :
    (withS 0).S.written = true ∧ State.reset.S.written = false ∧ (3 : Nat) < 4 ∧ (15 : Nat) < 16 ∧
    State.reset.BUSY = false ∧ State.reset.sample.rst = false ∧ State.reset.sample.reqValid = false := by decide
/-- For ArkAddsRoundKey: round key 10 readable; round key 10 with one byte short; `S` unwritten; number 11. -/
theorem witness_ArkAddsRoundKey :
    (10 : BitVec 4).toNat ≤ 10 ∧ (withRoundKey 10 0 0).S.written = true ∧
    (∀ i, i < 16 → ((withRoundKey 10 0 0).RK.read (16 * (10 : BitVec 4).toNat + i)).isSome = true) ∧
    (∃ i, i < 16 ∧ ({ withS 0 with RK := [(175, 0)] } : State).RK.read (16 * (10 : BitVec 4).toNat + i) = none) ∧
    State.reset.S.written = false ∧ 10 < (11 : BitVec 4).toNat :=
  ⟨by decide, by decide, by decide, ⟨0, by decide⟩, by decide, by decide⟩
/-- For KexpExpandsKey, KexpIsPureInTheKey and KexpStoresRoundKeys: two states with one key and different stores. -/
theorem witness_kexp :
    (running 1).K.written = true ∧ ({ State.reset with K := (running 1).K } : State).K = (running 1).K ∧
    State.reset.K.written = false ∧ (running 1).RK.wf = true ∧ State.reset.RK.wf = true ∧
    ((4 : Nat) ≤ 43 ∧ (43 : Nat) < 44) := by decide +kernel
/-- For StopsOnlyWhereTheRulesSay: each stop arises. -/
theorem witness_StopsOnlyWhereTheRulesSay :
    faultOf (exec (.ark 15) State.reset) = some .illegalUop ∧
    faultOf (exec .kexp State.reset) = some .unwrittenRead ∧
    faultOf (exec .out State.reset) = some .unwrittenRead ∧
    faultOf (exec (.ark 10) (withRoundKey 9 0 0)) = some .unwrittenRead := by decide
/-- For WorkingStateMicroOpsFrame and MicroOpsAdvanceUpc: a micro-op that completes, and OUT. -/
theorem witness_frames :
    isNext (exec .mix (withS 0)) = true ∧ isNext (exec (.ark 10) (withRoundKey 10 0 0)) = true ∧
    isNext (exec .out (withS 0)) = true ∧ Instr.mix.isCommand = false ∧ Instr.out.isCommand = false := by decide
theorem witness_KexpAndOutFrames :
    isNext (exec .kexp (running 1)) = true ∧ isNext (exec .out (withS 0)) = true ∧ ¬(176 < 176) := by
  decide +kernel
theorem witness_CommandsFrame :
    isNext (exec (.encrypt 16 16 zeroBlock zeroBlock) (running 5)) = true ∧ (running 5).BUSY = true ∧
    isNext (exec (.decrypt 15 16 zeroBlock zeroBlock) State.reset) = true ∧
    isNext (exec (.decrypt 16 16 zeroBlock zeroBlock) State.reset) = true := by decide +kernel
theorem witness_OnlyKexpWritesRk :
    isNext (step (running 0x05)) = true ∧ (running 0x05).sample.rst = false ∧
    uop (fetch uromImage (running 0x05).UPC) = some .mix := by decide +kernel
theorem witness_StatusCodesProduced : isNext (step State.reset) = true := by decide
theorem witness_InstancesAreIsolated :
    (chipReset 2)[1]? = some State.reset ∧ ([withS 7, State.reset] : Chip)[1]? = some State.reset ∧
    isNext (step State.reset) = true ∧ faultOf (step { State.reset with BUSY := true }) = some .unwrittenRead := by
  decide
theorem witness_FieldLaws : gmul 0x53 0xCA = 0x01 ∧ (0x53 : Byte) ≠ 0 := by decide
theorem witness_SboxConstruction :
    gmul 0x53 0xCA = 0x01 ∧ sboxAt 0x53 = 0xED ∧ sboxAt 0x00 = 0x63 := by decide
theorem witness_RoundConstantsDouble : (8 : Nat) < 9 := by decide
theorem witness_ArkTwiceRestores :
    (10 : BitVec 4).toNat ≤ 10 ∧ (withRoundKey 10 0 0).S.written = true ∧
    (withRoundKey 10 0 0).RK.covers (16 * (10 : BitVec 4).toNat) 16 = true := by decide

theorem running_inRun_2 : (running 0x02).InRun :=
  ⟨rfl, by decide +kernel, by decide +kernel, rfl, rfl, fun _ => rfl, fun _ => by decide +kernel⟩
theorem running_inRun_42 : (running 0x2A).InRun :=
  ⟨rfl, by decide +kernel, by decide +kernel, rfl, rfl, fun _ => rfl, fun _ => by decide +kernel⟩

theorem witness_EveryStepKeepsTheInvariant : (running 0x02).Inv :=
  ⟨by decide +kernel, .inl rfl, (fun h => by cases h), fun _ => running_inRun_2⟩
theorem witness_EveryStepKeepsRkCanonical :
    (running 0x05).RK.wf = true ∧ isNext (step (running 0x05)) = true := by decide +kernel
theorem witness_RunsEndAtOut :
    (running 0x2A).InRun ∧ (running 0x2A).BUSY = true ∧ (running 0x2A).quiet (43 - (running 0x2A).offset) := by
  refine ⟨running_inRun_42, rfl, ?_⟩
  unfold State.quiet
  decide +kernel
/-- For EncryptRunDelivers, and for ResponseIsAFunctionOfTheRequest with valid lengths. -/
theorem witness_encrypt_run :
    (asking (ask 0 16 16)).BUSY = false ∧ (asking (ask 0 16 16)).quiet 44 ∧
    (asking (ask 0 16 16)).sample.reqValid = true ∧ (asking (ask 0 16 16)).sample.cmd.op = 0 ∧
    (asking (ask 0 16 16)).sample.cmd.dataLen = 16 ∧ (asking (ask 0 16 16)).sample.cmd.keyLen = 16 := by
  unfold State.quiet
  decide
/-- For ResponseIsAFunctionOfTheRequest with a wrong length, where one step without reset is enough. -/
theorem witness_refused_run :
    (asking (ask 1 16 17)).BUSY = false ∧ (asking (ask 1 16 17)).sample.reqValid = true ∧
    1 = (if (asking (ask 1 16 17)).sample.cmd.dataLen = 16 ∧ (asking (ask 1 16 17)).sample.cmd.keyLen = 16 then 44
         else 1) ∧ (asking (ask 1 16 17)).quiet 1 := by
  unfold State.quiet
  decide
theorem witness_DecryptRunDelivers :
    (asking (ask 1 16 16)).BUSY = false ∧ (asking (ask 1 16 16)).quiet 44 ∧
    (asking (ask 1 16 16)).sample.reqValid = true ∧ (asking (ask 1 16 16)).sample.cmd.op = 1 ∧
    (asking (ask 1 16 16)).sample.cmd.dataLen = 16 ∧ (asking (ask 1 16 16)).sample.cmd.keyLen = 16 := by
  unfold State.quiet
  decide
theorem witness_EarlierStateIsNotObservable :
    (asking (ask 1 16 16)).BUSY = false ∧
    ({ withS 7 with inputs := (asking (ask 1 16 16)).inputs } : State).BUSY = false ∧
    (asking (ask 1 16 16)).sample.rst = false ∧ (asking (ask 1 16 16)).sample.reqValid = true := by decide

end Sys2Proof.Tests
end

section
/-! PROOF. The state: what a micro-op, a command and a step leave unchanged, the output ports, the invariant of a run,
and two runs that the ports cannot tell apart (10_state.md R20 to R41). -/

namespace Sys2Proof.Machine

/-! ### What a micro-op and a command can answer -/

/-- The three kinds of micro-op by what they write: RK (KEXP), DOUT and the report (OUT), and S (the other eight). -/
theorem exec_microOp_cases {i : Instr} {s t : State} (hi : i.isCommand = false) (h : exec i s = .next t) :
    (i ≠ .kexp ∧ i ≠ .out ∧ ∃ b, t = (s.writeS b).nextUpc) ∨
    (i = .kexp ∧ ∃ rk, t = (s.writeRK rk).nextUpc) ∨
    (i = .out ∧ t = (s.writeDOUT s.S.bytes).markDone) := by
  cases i with
  | encrypt | decrypt => cases hi
  | kexp =>
    obtain ⟨_, rk, _, ht⟩ := (execKexp_eq_next_iff s t).1 h
    exact .inr (.inl ⟨rfl, rk, ht⟩)
  | out => exact .inr (.inr ⟨rfl, ((execOut_eq_next_iff s t).1 h).2⟩)
  | lds => exact .inl ⟨by decide, by decide, _, ((execLds_eq_next_iff s t).1 h).2⟩
  | ark r =>
    obtain ⟨_, k, _, _, ht⟩ := (execArk_eq_next_iff r s t).1 h
    exact .inl ⟨nofun, nofun, _, ht⟩
  | sub | shr | mix | isub | ishr | imix =>
    exact .inl ⟨by decide, by decide, _, ((transform_eq_next_iff _ s t).1 h).2⟩

/-- A request on the ports is the accept step with its own `req_op` and lanes. -/
theorem exec_decodeCmd (c : Cmd) (s : State) :
    exec (decodeCmd c) s =
      acceptRequest c.op c.dataLen c.keyLen (unpackLanes c.data) (unpackLanes c.key) s := by
  have hbit : ∀ op : BitVec 1, op ≠ 0 → op = 1 := by decide
  unfold decodeCmd
  by_cases h : c.op = 0
  · rw [if_pos h, h]
    rfl
  · rw [if_neg h, hbit _ h]
    rfl

/-- The state an accepted request leaves: the command at the start of its program (R171). -/
def State.accepted (s : State) (op : BitVec 1) (data key : Block) : State :=
  (s.writeRequest data key).markRunning op (startAddr op)

/-- The three cases of a request: the controller is busy (R173), the request is accepted (R171), or it is refused
(R202). -/
theorem acceptRequest_next_cases {op : BitVec 1} {dl kl : Byte} {d k : Block} {s t : State}
    (h : acceptRequest op dl kl d k s = .next t) :
    (s.BUSY = true ∧ t = s) ∨
    (s.BUSY = false ∧ lengthsOk dl kl = true ∧ t = s.accepted op d k) ∨
    (s.BUSY = false ∧ lengthsOk dl kl = false ∧ t = raiseInvalidLength s) := by
  rw [acceptRequest_eq] at h
  injection h with h
  by_cases hb : s.BUSY = true
  · rw [if_pos hb] at h
    exact .inl ⟨hb, h.symm⟩
  · rw [if_neg hb] at h
    rw [Bool.not_eq_true] at hb
    by_cases hl : lengthsOk dl kl = true
    · rw [if_pos hl] at h
      exact .inr (.inl ⟨hb, hl, h.symm⟩)
    · rw [if_neg hl] at h
      exact .inr (.inr ⟨hb, by simpa using hl, h.symm⟩)

/-- The frame of a request: `S`, `DOUT`, RK and the port samples always, the command's registers unless it is
accepted. -/
theorem acceptRequest_frame {op : BitVec 1} {dl kl : Byte} {d k : Block} {s t : State}
    (h : acceptRequest op dl kl d k s = .next t) :
    t.S = s.S ∧ t.DOUT = s.DOUT ∧ t.inputs = s.inputs ∧ t.RK = s.RK ∧
    (s.BUSY = true ∨ dl ≠ 16 ∨ kl ≠ 16 →
      t.DIN = s.DIN ∧ t.K = s.K ∧ t.OP = s.OP ∧ t.UPC = s.UPC ∧ t.BUSY = s.BUSY) := by
  rcases acceptRequest_next_cases h with ⟨_, rfl⟩ | ⟨hb, hl, rfl⟩ | ⟨_, _, rfl⟩
  · simp
  · obtain ⟨hd, hk⟩ := (lengthsOk_iff dl kl).1 hl
    simp [State.accepted, hb, hd, hk]
  · simp

/-! ### The step, case by case -/

theorem step_of_rst {s : State} (hr : s.sample.rst = true) : step s = .next (resetStep s.advance) := by
  simp [step, stepWith, hr]

theorem step_of_noRequest {s : State} (hr : s.sample.rst = false) (hb : s.BUSY = false)
    (hq : s.sample.reqValid = false) : step s = .next s.advance := by
  simp [step, stepWith, hr, hb, hq]

theorem step_of_request {s : State} (hr : s.sample.rst = false) (hb : s.BUSY = false)
    (hq : s.sample.reqValid = true) :
    step s = .next (if lengthsOk s.sample.cmd.dataLen s.sample.cmd.keyLen then
      s.advance.accepted s.sample.cmd.op (unpackLanes s.sample.cmd.data) (unpackLanes s.sample.cmd.key)
      else raiseInvalidLength s.advance) := by
  simp [step, stepWith, hr, hb, hq, exec_decodeCmd, acceptRequest_eq, State.accepted]

theorem sample_eq_of_inputs_eq {s u : State} (e : s.inputs = u.inputs) : s.sample = u.sample := by
  rw [State.sample, State.sample, e]

/-! ### The lanes of the data port -/

/-- A packed port gives back each byte on its own lane (R54). -/
theorem lane_packLanes (b : Block) {i : Nat} (h : i < 16) : lane (packLanes b) i = b[i] := by
  show (b[0] ++ b[1] ++ b[2] ++ b[3] ++ b[4] ++ b[5] ++ b[6] ++ b[7] ++ b[8] ++ b[9] ++ b[10] ++ b[11] ++
    b[12] ++ b[13] ++ b[14] ++ b[15]).extractLsb' (120 - 8 * i) 8 = b[i]
  interval_cases i <;>
    simp (disch := decide) only [Nat.reduceMul, Nat.reduceSub, BitVec.extractLsb'_append_eq_of_le,
      BitVec.extractLsb'_append_eq_of_add_le, BitVec.extractLsb'_eq_self]

theorem lane_zero (i : Nat) : lane 0 i = 0 := by
  simp [lane]

/-! ### The invariant of a run -/

@[simp] theorem State.accepted_offset (s : State) (op : BitVec 1) (data key : Block) :
    (s.accepted op data key).offset = 0 :=
  Nat.sub_self _

/-- An accepted command is in progress, with no micro-op executed yet. -/
theorem State.accepted_inRun (s : State) (op : BitVec 1) (data key : Block) : (s.accepted op data key).InRun where
  silent := rfl
  fromStart := Nat.le_refl _
  toOut := Nat.le_add_right _ _
  din := rfl
  key := rfl
  working h := by simp at h
  schedule h := by simp at h

/-- A micro-op that writes `S` keeps a run going, but for the second one, which must write RK. -/
theorem State.InRun.writeS {s : State} (h : s.InRun) (ho : s.offset < 42) (h1 : s.offset ≠ 1)
    (b : Block) :
    (s.advance.writeS b).nextUpc.InRun ∧ (s.advance.writeS b).nextUpc.offset = s.offset + 1 :=
  inRun_of_nextUpc h rfl rfl ho h.silent h.din h.key rfl fun _ => h.schedule (by omega)

/-- KEXP keeps a run going when it writes the whole of RK. -/
theorem State.InRun.writeRK {s : State} (h : s.InRun) (ho : s.offset = 1) {rk : Memory}
    (hc : rk.covers 0 Config.rkBytes = true) :
    (s.advance.writeRK rk).nextUpc.InRun ∧ (s.advance.writeRK rk).nextUpc.offset = s.offset + 1 :=
  inRun_of_nextUpc h rfl rfl (by omega) h.silent h.din h.key (h.working (by omega)) fun _ => hc

theorem inv_resetStep (s : State) : (resetStep s).Inv :=
  ⟨Memory.wf_reset, .inl rfl, nofun, nofun⟩

/-- A step of a running controller that is not reset completes and keeps the invariant. -/
theorem State.Inv.step_running {s : State} (h : s.Inv) (hb : s.BUSY = true) (hr : s.sample.rst = false) :
    ∃ t, step s = .next t ∧ t.Inv := by
  have hrun := h.running hb
  rcases step_of_inRun hrun hb hr with
    ⟨ho, e⟩ | ⟨ho, rk, e, hk, hw⟩ | ⟨ho, ho', _, b, _, _, _, e⟩ | ⟨_, e⟩
  · exact ⟨_, e, h.memory, h.status, h.result, fun _ => (hrun.writeS (by omega) (by omega) _).1⟩
  · exact ⟨_, e, hw h.memory, h.status, h.result, fun _ => (hrun.writeRK ho hk.covers).1⟩
  · exact ⟨_, e, h.memory, h.status, h.result, fun _ => (hrun.writeS ho' (by omega) b).1⟩
  · exact ⟨_, e, h.memory, .inl rfl, fun _ _ => rfl, nofun⟩

/-! ### Two runs that see the same host -/

/-- Two commands in progress at the same place on the same request. A register counts only from the micro-op that
first writes it (R38): before that it may hold what earlier invocations left. -/
structure SameRun (s u : State) : Prop where
  left : s.InRun
  right : u.InRun
  op : s.OP = u.OP
  upc : s.UPC = u.UPC
  din : s.DIN.bytes = u.DIN.bytes
  key : s.K.bytes = u.K.bytes
  working : 1 ≤ s.offset → s.S.bytes = u.S.bytes
  schedule : 2 ≤ s.offset → ∀ a, a < Config.rkBytes → s.RK.read a = u.RK.read a

/-- Two states the ports do not tell apart, now or later: the same control as far as it shows, the same block behind an
OK response, and the same run if one is in progress. -/
structure Alike (s u : State) : Prop where
  inputs : s.inputs = u.inputs
  busy : s.BUSY = u.BUSY
  valid : s.RSP_VALID = u.RSP_VALID
  status : s.RSP_VALID = true → s.RSP_STATUS = u.RSP_STATUS
  dout : s.RSP_VALID = true → s.RSP_STATUS = statusOk → s.DOUT.bytes = u.DOUT.bytes
  running : s.BUSY = true → SameRun s u

theorem SameRun.offset_eq {s u : State} (h : SameRun s u) : s.offset = u.offset := by
  rw [State.offset, State.offset, h.op, h.upc]

/-- Alike states show the same response. -/
theorem Alike.response_eq {s u : State} (h : Alike s u) : responseOf s = responseOf u := by
  unfold responseOf
  rw [← h.valid]
  cases hv : s.RSP_VALID with
  | false => rfl
  | true =>
    rw [← h.status hv]
    by_cases hs : s.RSP_STATUS = statusOk
    · rw [h.dout hv hs]
    · have h0 : s.RSP_STATUS.toNat ≠ 0 := fun e => hs (BitVec.eq_of_toNat_eq e)
      simp only [if_true]
      split
      · contradiction
      all_goals rfl

/-- Alike states show the same data. -/
theorem Alike.rspData_eq {s u : State} (h : Alike s u) : rspDataOf s = rspDataOf u := by
  unfold rspDataOf
  rw [← h.valid]
  cases hv : s.RSP_VALID with
  | false => rfl
  | true =>
    rw [← h.status hv]
    by_cases hs : s.RSP_STATUS = statusOk
    · rw [h.dout hv hs]
    · simp [hs]

/-- A reset makes any two states alike that see the same port samples. -/
theorem alike_resetStep {s u : State} (e : s.inputs = u.inputs) :
    Alike (resetStep s.advance) (resetStep u.advance) where
  inputs := by simp [e]
  busy := rfl
  valid := rfl
  status := nofun
  dout := nofun
  running := nofun

/-- A step with nothing to do keeps idle states alike. -/
theorem Alike.advance_idle {s u : State} (h : Alike s u) (hb : s.BUSY = false) : Alike s.advance u.advance where
  inputs := by simp [h.inputs]
  busy := h.busy
  valid := h.valid
  status := h.status
  dout := h.dout
  running := by simp [hb]

/-- The same request starts the same run from any two states. -/
theorem sameRun_accepted (s u : State) (op : BitVec 1) (data key : Block) :
    SameRun (s.accepted op data key) (u.accepted op data key) where
  left := s.accepted_inRun op data key
  right := u.accepted_inRun op data key
  op := rfl
  upc := rfl
  din := rfl
  key := rfl
  working h := by simp at h
  schedule h := by simp at h

/-- A request, accepted or refused, makes idle states of any contents alike: nothing of an earlier invocation is left
where it can show. -/
theorem exists_step_of_request_alike {s u : State} (e : s.inputs = u.inputs) (hr : s.sample.rst = false)
    (hs : s.BUSY = false) (hu : u.BUSY = false) (hq : s.sample.reqValid = true) :
    ∃ s' u', step s = .next s' ∧ step u = .next u' ∧ Alike s' u' := by
  have he := sample_eq_of_inputs_eq e
  have hi : s.advance.inputs = u.advance.inputs := by simp [e]
  refine ⟨_, _, step_of_request hr hs hq, step_of_request (he ▸ hr) hu (he ▸ hq), ?_⟩
  rw [← he]
  split
  · exact ⟨hi, rfl, rfl, nofun, nofun, fun _ => sameRun_accepted _ _ _ _ _⟩
  · exact ⟨hi, hs.trans hu.symm, rfl, fun _ => rfl, fun _ => nofun, by simp [hs]⟩

/-- A round operation gives the same `S` from the same `S` and the same round keys. -/
theorem roundOp_S_bytes_eq {i : Instr} {s t u v : State} (hi : isRoundOp i = true)
    (hs : exec i s = .next t) (hu : exec i u = .next v) (hS : s.S.bytes = u.S.bytes)
    (hR : ∀ a, a < Config.rkBytes → s.RK.read a = u.RK.read a) : t.S.bytes = v.S.bytes := by
  cases i with
  | lds | kexp | out | encrypt | decrypt => cases hi
  | sub | shr | mix | isub | ishr | imix =>
    obtain ⟨_, rfl⟩ := (transform_eq_next_iff _ s t).1 hs
    obtain ⟨_, rfl⟩ := (transform_eq_next_iff _ u v).1 hu
    simp [hS]
  | ark r =>
    obtain ⟨hr, k, hk, _, rfl⟩ := (execArk_eq_next_iff r s t).1 hs
    obtain ⟨_, k', hk', _, rfl⟩ := (execArk_eq_next_iff r u v).1 hu
    have hr10 := (legalRound_iff r).1 hr
    rw [Memory.readVec_eq_some_iff] at hk hk'
    have hkk : k = k' := by
      ext1 j hj
      have ha : roundKeyAddr r + j < Config.rkBytes := by
        show 16 * r.toNat + j < 176
        omega
      exact Option.some.inj ((hk j hj).symm.trans ((hR _ ha).trans (hk' j hj)))
    simp [hS, hkk]

/-- Two memories that hold the schedule of one key agree on all of RK. -/
theorem HoldsSchedule.read_eq {rk rk' : Memory} {key : Block} (h : HoldsSchedule rk key 44)
    (h' : HoldsSchedule rk' key 44) (a : Nat) (ha : a < Config.rkBytes) : rk.read a = rk'.read a := by
  have h176 : a < 176 := ha
  rw [← Nat.div_add_mod a 4, h _ (by omega) _ (by omega), h' _ (by omega) _ (by omega)]

/-- The steps of two runs of one request: both write the same block to `S`, both write the same schedule to RK, or both
end with the same block in `DOUT`. -/
theorem SameRun.step_cases {s u : State} (h : SameRun s u) (hs : s.BUSY = true) (hu : u.BUSY = true)
    (hr : s.sample.rst = false) (hr' : u.sample.rst = false) :
    (s.offset < 42 ∧ s.offset ≠ 1 ∧ ∃ b, step s = .next (s.advance.writeS b).nextUpc ∧
      step u = .next (u.advance.writeS b).nextUpc) ∨
    (s.offset = 1 ∧ ∃ rk rk', step s = .next (s.advance.writeRK rk).nextUpc ∧
      step u = .next (u.advance.writeRK rk').nextUpc ∧
      HoldsSchedule rk s.K.bytes 44 ∧ HoldsSchedule rk' s.K.bytes 44) ∨
    (∃ b, step s = .next (s.advance.writeDOUT b).markDone ∧
      step u = .next (u.advance.writeDOUT b).markDone) := by
  have ho := h.offset_eq
  rcases step_of_inRun h.left hs hr with
    ⟨hs0, es⟩ | ⟨hs1, rk, es, hk, _⟩ | ⟨hs2, hs42, i, b, hd, hi, xs, es⟩ | ⟨hs42, es⟩ <;>
    rcases step_of_inRun h.right hu hr' with
      ⟨hu0, eu⟩ | ⟨hu1, rk', eu, hk', _⟩ | ⟨hu2, hu42, i', b', hd', _, xu, eu⟩ | ⟨hu42, eu⟩
  -- The offsets are equal, so only the four equal kinds are left.
  any_goals exfalso; omega
  · exact .inl ⟨by omega, by omega, _, es, h.din ▸ eu⟩
  · exact .inr (.inl ⟨hs1, rk, rk', es, eu, hk, h.key ▸ hk'⟩)
  · obtain rfl : i = i' := by
      rw [h.upc, hd'] at hd
      exact (Except.ok.inj hd).symm
    obtain rfl : b = b' := roundOp_S_bytes_eq hi xs xu (h.working (by omega)) (h.schedule hs2)
    exact .inl ⟨hs42, by omega, b, es, eu⟩
  · exact .inr (.inr ⟨_, es, h.working (by omega) ▸ eu⟩)

/-- A step of two alike running controllers that are not reset leaves them alike. -/
theorem Alike.exists_step_running {s u : State} (h : Alike s u) (hb : s.BUSY = true)
    (hr : s.sample.rst = false) :
    ∃ s' u', step s = .next s' ∧ step u = .next u' ∧ Alike s' u' := by
  have hrun := h.running hb
  have hi : s.advance.inputs = u.advance.inputs := by simp [h.inputs]
  have hr' : u.sample.rst = false := sample_eq_of_inputs_eq h.inputs ▸ hr
  have hupc : s.UPC + 1 = u.UPC + 1 := by rw [hrun.upc]
  rcases hrun.step_cases hb (h.busy ▸ hb) hr hr' with
    ⟨ho, ho1, b, es, eu⟩ | ⟨ho, rk, rk', es, eu, hk, hk'⟩ | ⟨b, es, eu⟩
  · obtain ⟨hl, hol⟩ := hrun.left.writeS ho ho1 b
    obtain ⟨hu, _⟩ := hrun.right.writeS (hrun.offset_eq ▸ ho) (hrun.offset_eq ▸ ho1) b
    exact ⟨_, _, es, eu, hi, h.busy, h.valid, h.status, h.dout, fun _ =>
      ⟨hl, hu, hrun.op, hupc, hrun.din, hrun.key, fun _ => rfl, fun h2 => hrun.schedule (by omega)⟩⟩
  · obtain ⟨hl, _⟩ := hrun.left.writeRK ho hk.covers
    obtain ⟨hu, _⟩ := hrun.right.writeRK (hrun.offset_eq ▸ ho) hk'.covers
    exact ⟨_, _, es, eu, hi, h.busy, h.valid, h.status, h.dout, fun _ =>
      ⟨hl, hu, hrun.op, hupc, hrun.din, hrun.key, fun _ => hrun.working (by omega),
        fun _ => hk.read_eq hk'⟩⟩
  · exact ⟨_, _, es, eu, hi, rfl, rfl, fun _ => rfl, fun _ _ => rfl, nofun⟩

/-- States the ports do not tell apart step to such states again. -/
theorem Alike.exists_step {s u : State} (h : Alike s u) :
    ∃ s' u', step s = .next s' ∧ step u = .next u' ∧ Alike s' u' := by
  have he := sample_eq_of_inputs_eq h.inputs
  cases hr : s.sample.rst with
  | true => exact ⟨_, _, step_of_rst hr, step_of_rst (he ▸ hr), alike_resetStep h.inputs⟩
  | false =>
    cases hb : s.BUSY with
    | true => exact h.exists_step_running hb hr
    | false =>
      have hb' : u.BUSY = false := h.busy ▸ hb
      cases hq : s.sample.reqValid with
      | true => exact exists_step_of_request_alike h.inputs hr hb hb' hq
      | false =>
        exact ⟨_, _, step_of_noRequest hr hb hq, step_of_noRequest (he ▸ hr) hb' (he ▸ hq), h.advance_idle hb⟩

/-- Alike states stay alike for any number of steps. -/
theorem Alike.exists_run (k : Nat) : ∀ {s u : State}, Alike s u →
    ∃ s' u', run k s = .next s' ∧ run k u = .next u' ∧ Alike s' u' := by
  induction k with
  | zero => exact fun {s u} h => ⟨s, u, rfl, rfl, h⟩
  | succ k ih =>
    intro s u h
    obtain ⟨s₁, u₁, es, eu, h₁⟩ := h.exists_step
    rw [run_succ_of_next es, run_succ_of_next eu]
    exact ih h₁

/-! ### The statements -/

/-- Settles O54, by the order of checks of a step: reset, running, request, nothing. -/
theorem everyStepKeepsTheInvariant : Obligations.EveryStepKeepsTheInvariant := by
  intro s h
  cases hr : s.sample.rst with
  | true => exact ⟨_, step_of_rst hr, inv_resetStep _⟩
  | false =>
    cases hb : s.BUSY with
    | true => exact h.step_running hb hr
    | false =>
      cases hq : s.sample.reqValid with
      | false => exact ⟨_, step_of_noRequest hr hb hq, h.memory, h.status, h.result, by simp [hb]⟩
      | true =>
        refine ⟨_, step_of_request hr hb hq, ?_⟩
        split
        · exact ⟨h.memory, h.status, nofun, fun _ => State.accepted_inRun _ _ _ _⟩
        · exact ⟨h.memory, .inr rfl, fun _ => nofun, by simp [hb]⟩

/-- Settles O34: each of the eight writes `S` and advances `UPC`. -/
theorem workingStateMicroOpsFrame : Obligations.WorkingStateMicroOpsFrame := by
  intro i s t hi h
  have hw : i.isCommand = false ∧ i ≠ .kexp ∧ i ≠ .out := by
    rcases hi with ⟨r, rfl⟩ | hi
    · exact ⟨rfl, nofun, nofun⟩
    · clear h
      revert i
      decide
  obtain ⟨hc, hk, ho⟩ := hw
  rcases exec_microOp_cases hc h with ⟨_, _, b, rfl⟩ | ⟨e, _⟩ | ⟨e, _⟩
  · simp
  · exact absurd e hk
  · exact absurd e ho

/-- Settles O35, with the frame of the loop of KEXP. -/
theorem kexpAndOutFrames : Obligations.KexpAndOutFrames := by
  constructor
  · intro s t h
    obtain ⟨_, rk, e, rfl⟩ := (execKexp_eq_next_iff s t).1 h
    obtain ⟨rk', e', _, hframe, _⟩ := kexpLoop_spec s.RK s.K.bytes
    obtain rfl : rk = rk' := Option.some.inj (e.symm.trans e')
    simpa [Config.rkBytes] using hframe
  · intro s t h
    obtain ⟨_, rfl⟩ := (execOut_eq_next_iff s t).1 h
    simp

/-- Settles O36: both commands are a request with their own `req_op`. -/
theorem commandsFrame : Obligations.CommandsFrame := by
  intro i dl kl data key s t hi h
  have ha : ∃ op, acceptRequest op dl kl data key s = .next t := by
    rcases hi with rfl | rfl
    · exact ⟨0, h⟩
    · exact ⟨1, h⟩
  obtain ⟨op, ha⟩ := ha
  obtain ⟨hS, hD, hI, hR, hrest⟩ := acceptRequest_frame ha
  exact ⟨hS, hD, hI, fun a => by rw [hR], hrest⟩

/-- Settles O37, by the three kinds of micro-op. -/
theorem microOpsAdvanceUpc : Obligations.MicroOpsAdvanceUpc := by
  intro i s t hi h
  rcases exec_microOp_cases hi h with ⟨_, ho, b, rfl⟩ | ⟨rfl, rk, rfl⟩ | ⟨rfl, rfl⟩
  · simp [ho]
  · simp
  · simp

/-- Settles O38, by what the step executes. -/
theorem onlyKexpWritesRk : Obligations.OnlyKexpWritesRk := by
  intro s t h hr hk
  rcases step_next_cases h with ⟨hr', _⟩ | ⟨_, hb, i, hd, he⟩ | ⟨_, _, _, he⟩ | ⟨_, _, _, rfl⟩
  · simp [hr] at hr'
  · rcases exec_microOp_cases (decodeUop_not_command hd) he with ⟨_, _, b, rfl⟩ | ⟨rfl, _⟩ | ⟨_, rfl⟩
    · simp
    · exact absurd ⟨hb, hd⟩ hk
    · simp
  · rw [exec_decodeCmd] at he
    obtain ⟨_, _, _, hR, _⟩ := acceptRequest_frame he
    simpa using hR
  · simp

/-- Settles O39: only OUT, a refused request and the reset step write the status. -/
theorem statusCodesProduced : Obligations.StatusCodesProduced := by
  intro s t h
  rcases step_next_cases h with ⟨_, rfl⟩ | ⟨_, _, i, hd, he⟩ | ⟨_, _, _, he⟩ | ⟨_, _, _, rfl⟩
  · simp
  · rcases exec_microOp_cases (decodeUop_not_command hd) he with ⟨_, _, b, rfl⟩ | ⟨_, rk, rfl⟩ | ⟨_, rfl⟩
    · simp
    · simp
    · simp [statusOk]
  · rw [exec_decodeCmd] at he
    rcases acceptRequest_next_cases he with ⟨_, rfl⟩ | ⟨_, _, rfl⟩ | ⟨_, _, rfl⟩
    · simp
    · simp [State.accepted]
    · simp [statusInvalidLength]
  · simp

/-- Settles O60: the request makes the two states alike, and every later step keeps them so. -/
theorem earlierStateIsNotObservable : Obligations.EarlierStateIsNotObservable := by
  intro s u k hs hu e hr hq
  obtain ⟨s₁, u₁, es, eu, h₁⟩ := exists_step_of_request_alike e hr hs hu hq
  obtain ⟨s', u', es', eu', h'⟩ := h₁.exists_run k
  rw [run_succ_of_next es, run_succ_of_next eu]
  exact ⟨s', u', es', eu', h'.busy, h'.response_eq, h'.rspData_eq⟩

/-- Settles O13: each value is the one `State.reset` writes. -/
theorem resetStateValues : Obligations.ResetStateValues :=
  ⟨rfl, rfl, rfl, rfl, rfl, rfl, rfl, rfl, rfl, fun _ => rfl, rfl⟩

/-- Settles O40, with the lanes of a packed block. -/
theorem outputsAreGated : Obligations.OutputsAreGated := by
  intro s
  refine ⟨rfl, rfl, rfl, fun i hi => ?_⟩
  show lane (rspDataOf s) i = _
  unfold rspDataOf statusOk
  by_cases hc : s.RSP_VALID = true ∧ s.RSP_STATUS = 0
  · rw [if_pos hc, if_pos (by simpa using hc)]
    exact lane_packLanes s.DOUT.bytes hi
  · rw [if_neg hc, if_neg (by simpa using hc)]
    exact lane_zero i

/-- Settles O53: after reset no response is shown and no command runs. -/
theorem resetMeetsTheInvariant : Obligations.ResetMeetsTheInvariant :=
  ⟨Memory.wf_reset, .inl rfl, nofun, nofun⟩

end Sys2Proof.Machine
end

section
/-! PROOF. The memory of 20_memory.md: the byte lanes of the ports and the two encodings (R54, R82, R87), the round-key
store after KEXP and after any step (R50, R51, R58), and the instances of a chip (R68). -/

namespace Sys2Proof.Machine

/-! ### The round-key store -/

/-- KEXP with a written `K`: it completes, `RK` holds the whole schedule, and a canonical `RK` stays canonical (R156). -/
theorem exec_kexp_of_written {s : State} (h : s.K.written = true) :
    ∃ rk, exec .kexp s = .next (s.writeRK rk).nextUpc ∧ HoldsSchedule rk s.K.bytes 44 ∧
      (s.RK.wf = true → rk.wf = true) := by
  obtain ⟨rk, e, hs, _, hw⟩ := kexpLoop_spec s.RK s.K.bytes
  exact ⟨rk, (execKexp_eq_next_iff s _).2 ⟨h, rk, e, rfl⟩, hs, hw⟩

/-- KEXP keeps the canonical form of `RK`. -/
theorem wf_of_exec_kexp {s t : State} (h : exec .kexp s = .next t) (hw : s.RK.wf = true) :
    t.RK.wf = true := by
  obtain ⟨rk, e, _, hrk⟩ := exec_kexp_of_written ((execKexp_eq_next_iff s t).1 h).1
  cases h.symm.trans e
  exact hrk hw

/-- The step of a running controller executes the micro-op at the counter (R174). -/
theorem step_of_microOp {s : State} {i : Instr} (hr : s.sample.rst = false) (hb : s.BUSY = true)
    (hd : decodeUop (fetch uromImage s.UPC) = .ok i) : step s = exec i s.advance := by
  simp [step, stepWith, microStep, hr, hb, hd]

/-- Settles O55: a reset step empties RK, KEXP keeps it canonical, and no other step writes it. -/
theorem everyStepKeepsRkCanonical : Obligations.EveryStepKeepsRkCanonical := by
  intro s t hw h
  cases hr : s.sample.rst with
  | true =>
    cases h.symm.trans (step_of_rst hr)
    exact Memory.wf_reset
  | false =>
    by_cases hk : s.BUSY = true ∧ decodeUop (fetch uromImage s.UPC) = .ok .kexp
    · obtain ⟨hb, hd⟩ := hk
      exact wf_of_exec_kexp ((step_of_microOp hr hb hd).symm.trans h) hw
    · rwa [onlyKexpWritesRk s t h hr hk]

/-- Settles O31: the loop of KEXP leaves the whole schedule, and a round key is four words of it. -/
theorem kexpStoresRoundKeys : Obligations.KexpStoresRoundKeys := by
  intro s hK
  obtain ⟨rk, e, hs, _⟩ := exec_kexp_of_written hK
  exact ⟨_, e, fun r hr => hs.readRoundKey hr⟩

/-! ### The byte lanes of a port -/

theorem getElem_unpackLanes (p : BitVec 128) {i : Nat} (h : i < 16) : (unpackLanes p)[i] = lane p i := by
  simp [unpackLanes]

/-- Bit `j` of a port is bit `j mod 8` of lane `15 - j div 8` (R54). -/
theorem getLsbD_eq_lane (p : BitVec 128) {j : Nat} (h : j < 128) :
    p.getLsbD j = (lane p (15 - j / 8)).getLsbD (j % 8) := by
  have hj : 120 - 8 * (15 - j / 8) + j % 8 = j := by omega
  rw [lane, BitVec.getLsbD_extractLsb', hj, decide_eq_true (Nat.mod_lt j (by decide)), Bool.true_and]

/-- The sixteen lanes are the whole of a port. -/
theorem eq_of_lane_eq {p q : BitVec 128} (h : ∀ i, i < 16 → lane p i = lane q i) : p = q := by
  refine BitVec.eq_of_getLsbD_eq fun j hj => ?_
  rw [getLsbD_eq_lane p hj, getLsbD_eq_lane q hj, h _ (by omega)]

theorem unpackLanes_packLanes (b : Block) : unpackLanes (packLanes b) = b := by
  ext1 i hi
  rw [getElem_unpackLanes _ hi, lane_packLanes b hi]

theorem packLanes_unpackLanes (p : BitVec 128) : packLanes (unpackLanes p) = p :=
  eq_of_lane_eq fun _ hi => (lane_packLanes _ hi).trans (getElem_unpackLanes p hi)

/-- Settles O7: the lanes of a packed block are its bytes, and the lanes determine the port. -/
theorem portLanesArePacked : Obligations.PortLanesArePacked :=
  ⟨fun b _ h => lane_packLanes b h, fun p _ h => getElem_unpackLanes p h, unpackLanes_packLanes,
    packLanes_unpackLanes⟩

/-! ### A word or a request encodes what was decoded from it -/

/-- A word is made of its two fields (R84). -/
theorem uopWord_uopOpc_uopRnd (w : Byte) : uopWord (uopOpc w) (uopRnd w) = w :=
  BitVec.extractLsb'_append_extractLsb' (w := 4) (len := 4)

/-- A micro-op without operand that is decoded from a word with its own `opc` encodes back to that word. -/
theorem encode_of_decodePlain {i j : Instr} {opc : BitVec 4} {w : Byte}
    (he : encode i = .uop (uopWord opc 0)) (hw : i.wf = true) (ho : (uopOpc w).toNat = opc.toNat)
    (h : decodePlain i w = .ok j) : encode j = .uop w ∧ j.wf = true := by
  unfold decodePlain at h
  split at h
  next hr =>
    cases h
    rw [he, ← BitVec.eq_of_toNat_eq ho, ← hr, uopWord_uopOpc_uopRnd]
    exact ⟨rfl, hw⟩
  next => cases h

/-- `ARK r` decoded from a word with its `opc` has a legal round number and encodes back to that word (R85). -/
theorem encode_of_decodeArk {j : Instr} {w : Byte} (ho : (uopOpc w).toNat = (0x3 : BitVec 4).toNat)
    (h : decodeArk w = .ok j) : encode j = .uop w ∧ j.wf = true := by
  unfold decodeArk at h
  split at h
  next hr =>
    cases h
    rw [encode, ← BitVec.eq_of_toNat_eq ho, uopWord_uopOpc_uopRnd]
    exact ⟨rfl, decide_eq_true hr⟩
  next => cases h

/-- The opcode map of R87 read backwards. -/
theorem encode_of_decodeUop {w : Byte} {i : Instr} (h : decodeUop w = .ok i) :
    encode i = .uop w ∧ i.wf = true := by
  unfold decodeUop at h
  split at h
  case h_3 ho => exact encode_of_decodeArk ho h
  case h_11 => cases h
  all_goals exact encode_of_decodePlain rfl rfl ‹_› h

/-- A request encodes back with its own `req_op` and lanes (R81, R82). -/
theorem encode_decodeCmd (c : Cmd) : encode (decodeCmd c) = .cmd c := by
  have hbit : ∀ op : BitVec 1, op ≠ 0 → op = 1 := by decide
  obtain ⟨op, dl, kl, data, key⟩ := c
  unfold decodeCmd
  split
  next h => rw [encode, packLanes_unpackLanes, packLanes_unpackLanes, ← h]
  next h => rw [encode, packLanes_unpackLanes, packLanes_unpackLanes, ← hbit op h]

/-- Every command is well formed, whatever its lengths (R90). -/
theorem decodeCmd_wf (c : Cmd) : (decodeCmd c).wf = true := by
  unfold decodeCmd
  split <;> rfl

/-- Settles O2, for each of the two formats. -/
theorem encodeDecodeRoundTrip : Obligations.EncodeDecodeRoundTrip := by
  intro e i h
  cases e with
  | uop w => exact encode_of_decodeUop h
  | cmd c =>
    cases h
    exact ⟨encode_decodeCmd c, decodeCmd_wf c⟩

/-! ### The instances of a chip -/

/-- Instance `k` takes its step in place, and every other instance stays as it was (R68). -/
theorem exists_chipStep_of_next {chip : Chip} {k : Nat} {s t : State} (hk : chip[k]? = some s)
    (h : step s = .next t) :
    ∃ chip', chipStep chip k = .next chip' ∧ chip'[k]? = some t ∧ chip'.length = chip.length ∧
      ∀ j, j ≠ k → chip'[j]? = chip[j]? := by
  obtain ⟨hlt, _⟩ := List.getElem?_eq_some_iff.1 hk
  exact ⟨chip.set k t, by simp [chipStep, hk, h], List.getElem?_set_self hlt, List.length_set,
    fun j hj => List.getElem?_set_ne hj.symm⟩

/-- The fault of an instance stops the step of the chip. -/
theorem chipStep_of_fault {chip : Chip} {k : Nat} {s : State} {f : Fault} (hk : chip[k]? = some s)
    (h : step s = .fault f) : chipStep chip k = .fault f := by
  simp [chipStep, hk, h]

/-- Settles O41: a step of instance `k` is `step` of that instance's own state, on any chip that holds it. -/
theorem instancesAreIsolated : Obligations.InstancesAreIsolated := by
  intro chip other k s hc ho
  constructor
  · intro t h
    obtain ⟨chip', e, hk, hlen, hrest⟩ := exists_chipStep_of_next hc h
    obtain ⟨other', e', hk', _⟩ := exists_chipStep_of_next ho h
    exact ⟨chip', other', e, e', hk, hk', hlen, hrest⟩
  · exact fun f h => ⟨chipStep_of_fault hc h, chipStep_of_fault ho h⟩

end Sys2Proof.Machine
end

section
/-! PROOF. The encodings of 30_encoding.md: decoding an encoded instruction (R82, R84, R87), the illegal words and what
`UROM` holds (R89, R95, R177 to R179), a host's buffers as a request (R96, R201), and the written forms (R93, R96). -/

namespace Sys2Proof.Machine

/-! ### Decoding an encoded instruction -/

@[simp] theorem uopOpc_uopWord (opc rnd : BitVec 4) : uopOpc (uopWord opc rnd) = opc :=
  BitVec.extractLsb'_append_eq_left

@[simp] theorem uopRnd_uopWord (opc rnd : BitVec 4) : uopRnd (uopWord opc rnd) = rnd :=
  BitVec.extractLsb'_append_eq_right

/-- A legal round number comes back out of its word (R85). -/
theorem decodeArk_uopWord {r : BitVec 4} (h : r.toNat ≤ Config.rounds) (opc : BitVec 4) :
    decodeArk (uopWord opc r) = .ok (.ark r) := by
  simp [decodeArk, h]

/-- The word of `ARK` reaches `decodeArk`, whatever its round number (R87: "by `opc` first"). -/
theorem decodeUop_arkWord (r : BitVec 4) : decodeUop (uopWord 0x3 r) = decodeArk (uopWord 0x3 r) := by
  simp [decodeUop]

/-- A request that carries two packed blocks is the command on those blocks (R54, R82). -/
theorem decodeCmd_packLanes (op : BitVec 1) (dl kl : Byte) (data key : Block) :
    decodeCmd ⟨op, dl, kl, packLanes data, packLanes key⟩ =
      if op = 0 then .encrypt dl kl data key else .decrypt dl kl data key := by
  simp only [decodeCmd, unpackLanes_packLanes]

/-- Settles O1: the nine words without operand by evaluation, `ARK` by its two fields, the commands by their lanes. -/
theorem decodeEncodeRoundTrip : Obligations.DecodeEncodeRoundTrip := by
  intro i hw
  cases i with
  | lds | kexp | sub | shr | mix | out | isub | ishr | imix => rfl
  | ark r => exact (decodeUop_arkWord r).trans (decodeArk_uopWord (of_decide_eq_true hw) 0x3)
  | encrypt dl kl data key | decrypt dl kl data key =>
    exact congrArg Except.ok (decodeCmd_packLanes _ dl kl data key)

/-! ### The legal words, and the fault of the others -/

/-- Every well-formed micro-op is in the list of those a word can carry (R85, R87). -/
theorem mem_legalUops {i : Instr} (hw : i.wf = true) (hc : i.isCommand = false) : i ∈ legalUops := by
  have hark : ∀ r : BitVec 4, r.toNat ≤ 10 → Instr.ark r ∈ legalUops := by decide
  cases i with
  | encrypt | decrypt => cases hc
  | ark r => exact hark r (of_decide_eq_true hw)
  | lds | kexp | sub | shr | mix | out | isub | ishr | imix => decide

theorem mem_legalUops_of_decodeUop {w : Byte} {i : Instr} (h : decodeUop w = .ok i) : i ∈ legalUops :=
  mem_legalUops (encode_of_decodeUop h).2 (decodeUop_not_command h)

/-- Settles O3: a word that decodes to a legal micro-op is that micro-op's own word, hence one of the 20. -/
theorem uopWordsDecodeAsTabled : Obligations.UopWordsDecodeAsTabled := by
  refine ⟨rfl, rfl, rfl, rfl, rfl, rfl, rfl, rfl, rfl, rfl, rfl, rfl, rfl, rfl, rfl, rfl, rfl, rfl, rfl, rfl,
    fun w hw => ?_⟩
  cases hd : decodeUop w with
  | error e => exact ⟨e, rfl⟩
  | ok i =>
    have hword : ∀ i ∈ legalUops, encode i ∈ List.map Encoded.uop
        [0x10, 0x20, 0x30, 0x31, 0x32, 0x33, 0x34, 0x35, 0x36, 0x37, 0x38, 0x39, 0x3A, 0x40, 0x50, 0x60,
          0x70, 0xC0, 0xD0, 0xE0] := by decide
    have hm := hword i (mem_legalUops_of_decodeUop hd)
    rw [(encode_of_decodeUop hd).1, List.mem_map_of_injective fun _ _ => Encoded.uop.inj] at hm
    exact absurd hm hw

theorem decodePlain_error_iff (i : Instr) (w : Byte) :
    (∃ e, decodePlain i w = .error e) ↔ uopRnd w ≠ 0 := by
  unfold decodePlain
  split
  next h => simp [h]
  next h => exact iff_of_true ⟨_, rfl⟩ h

theorem decodeArk_error_iff (w : Byte) : (∃ e, decodeArk w = .error e) ↔ 11 ≤ (uopRnd w).toNat := by
  unfold decodeArk Config.rounds
  split
  next h => simpa using Nat.lt_succ_of_le h
  next h => exact iff_of_true ⟨_, rfl⟩ (Nat.lt_of_not_le h)

/-- The decoder compares `opc` as a number. -/
theorem uopOpc_eq_ofNat {w : Byte} {n : Nat} (h : (uopOpc w).toNat = n) : uopOpc w = BitVec.ofNat 4 n := by
  simp [← h]

/-- The three cases of R89, each found in the arm of R87 that reads its `opc`. -/
theorem decodeUop_error_iff (w : Byte) : (∃ e, decodeUop w = .error e) ↔
    (uopOpc w ∈ ([0x0, 0x8, 0x9, 0xA, 0xB, 0xF] : List (BitVec 4)) ∨
      (uopOpc w = 0x3 ∧ 11 ≤ (uopRnd w).toNat) ∨
      (uopOpc w ∈ ([0x1, 0x2, 0x4, 0x5, 0x6, 0x7, 0xC, 0xD, 0xE] : List (BitVec 4)) ∧ uopRnd w ≠ 0)) := by
  unfold decodeUop
  split
  case h_3 ho => simp [decodeArk_error_iff, uopOpc_eq_ofNat ho]
  case h_11 =>
    have hopc : ∀ o : BitVec 4, o ∈ ([0x0, 0x8, 0x9, 0xA, 0xB, 0xF] : List (BitVec 4)) ∨
        o.toNat ∈ [0x1, 0x2, 0x3, 0x4, 0x5, 0x6, 0x7, 0xC, 0xD, 0xE] := by decide
    exact iff_of_true ⟨_, rfl⟩ (.inl ((hopc (uopOpc w)).resolve_right (by simp; tauto)))
  all_goals simp [decodePlain_error_iff, uopOpc_eq_ofNat ‹_›]

/-- The step on an illegal word is the fault of R206, whatever the ROM and the state. -/
theorem microStep_of_error {rom : List Byte} {s : State} (h : ∃ e, decodeUop (fetch rom s.UPC) = .error e) :
    microStep rom s = .fault .illegalUop := by
  obtain ⟨e, he⟩ := h
  simp [microStep, he]

/-! ### What `UROM` holds -/

/-- The encryption words are the expansion of `LDS; KEXP; ARK 0; ROUND 1 to 9; FINAL; OUT` (R95, R177). -/
theorem map_decodeUop_encryptProgram : encryptProgram.map decodeUop = encryptListing.map .ok := by decide

/-- The decryption words are the expansion of `LDS; KEXP; ARK 10; IROUND 9 to 1; IFINAL; OUT` (R95, R178). -/
theorem map_decodeUop_decryptProgram : decryptProgram.map decodeUop = decryptListing.map .ok := by decide

/-- Words that decode to a listing as a whole decode to it one by one. -/
theorem exists_decodeUop_getD {ws : List Byte} {is : List Instr} (h : ws.map decodeUop = is.map .ok)
    {a : Nat} (ha : a < ws.length) : ∃ i, is[a]? = some i ∧ decodeUop (ws.getD a 0) = .ok i := by
  have hl : ws.length = is.length := by simpa using congrArg List.length h
  have hd := congrArg (·[a]?) h
  refine ⟨is[a]'(hl ▸ ha), List.getElem?_eq_getElem _, ?_⟩
  simpa [ha, hl ▸ ha] using hd

theorem uromImage_getD_encrypt {a : Nat} (ha : a < 43) : uromImage.getD a 0 = encryptProgram.getD a 0 := by
  simp only [uromImage, List.append_assoc]
  exact List.getD_append _ _ _ _ ha

theorem uromImage_getD_decrypt {a : Nat} (ha : a < 43) :
    uromImage.getD (0x40 + a) 0 = decryptProgram.getD a 0 := by
  have hs : uromImage = (encryptProgram ++ unusedWords) ++ (decryptProgram ++ unusedWords) := by
    simp [uromImage]
  have hl : (encryptProgram ++ unusedWords).length = 0x40 := by decide
  rw [hs, List.getD_append_right _ _ _ _ (by omega), hl, Nat.add_sub_cancel_left]
  exact List.getD_append _ _ _ _ ha

/-- The words at 0x00 to 0x2A are legal, and are the encryption listing. -/
theorem exists_decodeUop_encrypt {a : Nat} (ha : a < 43) :
    ∃ i, encryptListing[a]? = some i ∧ decodeUop (uromImage.getD a 0) = .ok i := by
  rw [uromImage_getD_encrypt ha]
  exact exists_decodeUop_getD map_decodeUop_encryptProgram ha

/-- The words at 0x40 to 0x6A are legal, and are the decryption listing. -/
theorem exists_decodeUop_decrypt {a : Nat} (ha : a < 43) :
    ∃ i, decryptListing[a]? = some i ∧ decodeUop (uromImage.getD (0x40 + a) 0) = .ok i := by
  rw [uromImage_getD_decrypt ha]
  exact exists_decodeUop_getD map_decodeUop_decryptProgram ha

/-- The two gaps of 21 unused words (R179). -/
theorem uromImage_unused {a : Nat} (ha : (0x2B ≤ a ∧ a ≤ 0x3F) ∨ (0x6B ≤ a ∧ a ≤ 0x7F)) :
    uromImage[a]? = some 0 := by
  have h : ∀ k < 21, uromImage[0x2B + k]? = some 0 ∧ uromImage[0x6B + k]? = some 0 := by decide
  rcases ha with ⟨hlo, hhi⟩ | ⟨hlo, hhi⟩
  · obtain ⟨k, rfl⟩ := Nat.exists_eq_add_of_le hlo
    exact (h k (by omega)).1
  · obtain ⟨k, rfl⟩ := Nat.exists_eq_add_of_le hlo
    exact (h k (by omega)).2

/-- Settles O4, its third clause from the two listings. -/
theorem illegalWordsFault : Obligations.IllegalWordsFault := by
  refine ⟨decodeUop_error_iff, fun rom s => microStep_of_error, fun a ha => ?_, fun a => uromImage_unused⟩
  rcases ha with ha | ⟨hlo, hhi⟩
  · obtain ⟨i, _, hi⟩ := exists_decodeUop_encrypt (a := a) (by omega)
    exact ⟨i, hi⟩
  · obtain ⟨k, rfl⟩ := Nat.exists_eq_add_of_le hlo
    obtain ⟨i, _, hi⟩ := exists_decodeUop_decrypt (a := k) (by omega)
    exact ⟨i, hi⟩

/-- Settles O5, from the two listings address by address. -/
theorem romHoldsTheListings : Obligations.RomHoldsTheListings := by
  refine ⟨rfl, rfl, rfl, fun a ha => ?_, fun a ha => ?_⟩
  · obtain ⟨i, hl, hd⟩ := exists_decodeUop_encrypt ha
    rw [hl, hd]
    rfl
  · obtain ⟨i, hl, hd⟩ := exists_decodeUop_decrypt ha
    rw [hl, hd]
    rfl

/-! ### A host's buffers -/

/-- The saturation at 255 never makes a wrong length pass for 16 (log 15, D2). -/
theorem lengthField_eq_iff (buffer : List Byte) :
    lengthField buffer = Config.requiredLength ↔ buffer.length = 16 := by
  rw [← BitVec.toNat_inj]
  change min buffer.length 255 % 2 ^ 8 = 16 ↔ buffer.length = 16
  omega

/-- A buffer of 16 bytes is carried lane by lane (R96). -/
theorem unpackLanes_bufferLanes (b : Block) : unpackLanes (bufferLanes b.toList) = b := by
  rw [bufferLanes, unpackLanes_packLanes]
  ext i hi
  simp

/-- Settles O8: the length fields decide, and the lanes of two 16-byte buffers are their bytes. -/
theorem buffersBecomeRequests : Obligations.BuffersBecomeRequests := by
  constructor
  · intro op data key
    simp only [respond, requestOf, lengthField_eq_iff, unpackLanes_bufferLanes, Vector.length_toList, and_self,
      if_true]
    split <;> rfl
  · intro op data key h
    have hn : ¬(data.length = 16 ∧ key.length = 16) := by omega
    simp only [respond, requestOf, lengthField_eq_iff, if_neg hn]

/-! ### Micro-op lines -/

/-- The text of a line before its comment, without the spaces after it. -/
def textBeforeComment (line : List Char) : List Char :=
  ((line.takeWhile fun ch => ch != ';').reverse.dropWhile fun ch => ch == ' ').reverse

/-- The first `;` of a line ends what the reader looks at (R93). -/
theorem bareLine_comment {line : List Char} (h : ';' ∉ line) (comment : List Char) :
    bareLine (line ++ ';' :: comment) = bareLine line := by
  have hp : ∀ ch ∈ line, (ch != ';') = true := fun ch hc => by
    simpa using ne_of_mem_of_not_mem hc h
  have e : (line ++ ';' :: comment).takeWhile (fun ch => ch != ';') = line.takeWhile fun ch => ch != ';' := by
    rw [List.takeWhile_append_of_pos hp, List.takeWhile_eq_self_iff.2 hp, List.takeWhile_cons_of_neg (by simp),
      List.append_nil]
  simp only [bareLine, e]

theorem listingDigit_ne_semicolon {n : Nat} (h : n < 16) : listingDigit n ≠ ';' := by
  revert n
  decide

/-- The address and the word of a listing line are not part of its text (R93). -/
theorem bareLine_listingText (addr : BitVec 7) (word : Byte) (i : Instr) :
    bareLine (listingText addr word i) = textBeforeComment (uopText i) := by
  have ha : listingDigit (addr.toNat / 16) ≠ ';' := listingDigit_ne_semicolon (by omega)
  have ha' : listingDigit (addr.toNat % 16) ≠ ';' := listingDigit_ne_semicolon (by omega)
  have hw : listingDigit (word.toNat / 16) ≠ ';' := listingDigit_ne_semicolon (by omega)
  have hw' : listingDigit (word.toNat % 16) ≠ ';' := listingDigit_ne_semicolon (by omega)
  simp [bareLine, listingText, textBeforeComment, ha, ha', hw, hw']

/-- The texts of two micro-ops differ, so the reader finds the right one. -/
theorem parseUop_of_bareLine {line : List Char} {i : Instr} (hi : i ∈ legalUops)
    (h : bareLine line = uopText i) : parseUop line = some i := by
  have hfind : ∀ i ∈ legalUops, legalUops.find? (fun j => uopText j == uopText i) = some i := by decide
  rw [parseUop, h]
  exact hfind i hi

/-- A micro-op line has no comment, no outer spaces and no address. -/
theorem bareLine_uopText : ∀ i ∈ legalUops, bareLine (uopText i) = uopText i := by decide

theorem textBeforeComment_uopText : ∀ i ∈ legalUops, textBeforeComment (uopText i) = uopText i := by decide

theorem bareLine_uopText_space : ∀ i ∈ legalUops, bareLine (uopText i ++ [' ']) = uopText i := by decide

theorem semicolon_notMem_uopText : ∀ i ∈ legalUops, ';' ∉ uopText i ++ [' '] := by decide

/-- A micro-op line with a comment, whatever the comment holds. -/
theorem bareLine_uopText_comment {i : Instr} (hi : i ∈ legalUops) (comment : List Char) :
    bareLine (uopText i ++ [' ', ';'] ++ comment) = uopText i := by
  have e : uopText i ++ [' ', ';'] ++ comment = (uopText i ++ [' ']) ++ ';' :: comment := by simp
  rw [e, bareLine_comment (semicolon_notMem_uopText i hi), bareLine_uopText_space i hi]

/-! ### Host lines -/

theorem hexValue_hexDigit {n : Nat} (h : n < 16) : hexValue (hexDigit n) = some n := by
  revert n
  decide

theorem hexDigit_ne_space {n : Nat} (h : n < 16) : hexDigit n ≠ ' ' := by
  revert n
  decide

theorem hexText_cons (b : Byte) (bytes : List Byte) :
    hexText (b :: bytes) = hexDigit (b.toNat / 16) :: hexDigit (b.toNat % 16) :: hexText bytes := rfl

/-- The reader of hex strings undoes their writer (R9, R96). -/
theorem parseHex_hexText (bytes : List Byte) : parseHex (hexText bytes) = some bytes := by
  induction bytes with
  | nil => rfl
  | cons b bytes ih =>
    have hb : b.toNat / 16 < 16 := by omega
    have hb' : b.toNat % 16 < 16 := by omega
    simp [hexText_cons, parseHex, hexValue_hexDigit hb, hexValue_hexDigit hb', ih, Nat.div_add_mod]

theorem ne_space_of_mem_hexText {bytes : List Byte} {ch : Char} (h : ch ∈ hexText bytes) :
    (ch != ' ') = true := by
  obtain ⟨b, _, hc⟩ := List.mem_flatMap.1 h
  rcases List.mem_pair.1 hc with rfl | rfl <;> exact bne_iff_ne.2 (hexDigit_ne_space (by omega))

theorem afterPrefix_append (p text : List Char) : afterPrefix p (p ++ text) = some text := by
  induction p with
  | nil => rfl
  | cons ch p ih => simp [afterPrefix, ih]

/-- The space before `key=` is the first one, so it separates the two hex strings (R96). -/
theorem parseBuffers_hexText (op : BitVec 1) (data key : List Byte) :
    parseBuffers op (hexText data ++ ([' ', 'k', 'e', 'y', '='] ++ hexText key)) =
      some (requestOf op data key) := by
  have hns : ∀ ch ∈ hexText data, (ch != ' ') = true := fun _ => ne_space_of_mem_hexText
  have ht : (hexText data ++ ([' ', 'k', 'e', 'y', '='] ++ hexText key)).takeWhile (fun ch => ch != ' ') =
      hexText data := by
    rw [List.takeWhile_append_of_pos hns]
    exact List.append_nil _
  have hd : (hexText data ++ ([' ', 'k', 'e', 'y', '='] ++ hexText key)).dropWhile (fun ch => ch != ' ') =
      [' ', 'k', 'e', 'y', '='] ++ hexText key := List.dropWhile_append_of_pos hns
  rw [parseBuffers, ht, hd, afterPrefix_append, parseHex_hexText]
  simp only [parseHex_hexText]

/-- The command name at the start of a host line selects `req_op` (R96). -/
theorem parseHost_hostPrefix (op : BitVec 1) (text : List Char) :
    parseHost (hostPrefix op ++ text) = parseBuffers op text := by
  have hbit : op = 0 ∨ op = 1 := by revert op; decide
  rcases hbit with rfl | rfl
  · simp only [parseHost, afterPrefix_append]
  · have hother : afterPrefix (hostPrefix 0) (hostPrefix 1 ++ text) = none := rfl
    simp only [parseHost, hother, afterPrefix_append]

/-- Settles O9: every line of a micro-op has the micro-op's text as its bare text, and the parts of a host line are read
back one after the other. -/
theorem writtenFormsAreReadBack : Obligations.WrittenFormsAreReadBack := by
  constructor
  · intro i hw hc
    have hi := mem_legalUops hw hc
    refine ⟨parseUop_of_bareLine hi (bareLine_uopText i hi), fun addr word => ?_, fun comment => ?_⟩
    · exact parseUop_of_bareLine hi ((bareLine_listingText addr word i).trans (textBeforeComment_uopText i hi))
    · exact parseUop_of_bareLine hi (bareLine_uopText_comment hi comment)
  · intro op data key
    have e : hostText op data key =
        hostPrefix op ++ (hexText data ++ ([' ', 'k', 'e', 'y', '='] ++ hexText key)) := by
      simp [hostText]
    rw [e, parseHost_hostPrefix, parseBuffers_hexText]

end Sys2Proof.Machine
end

section
/-! PROOF. Galois-field arithmetic: the loop of `gmul` commutes with every additive map that commutes with `xtime`, and
the laws of the field follow from that one fact (40_gf_arithmetic.md R110 to R115). -/

namespace Sys2Proof.Machine

/-! ### Doubling -/

/-- The reducing byte if the bit shifted out was set, for a reduction without a branch on the whole byte (R112). -/
def reduction (a : Byte) : Byte := if a.getLsbD 7 then Config.reducingByte else 0

theorem xtime_eq (a : Byte) : xtime a = a <<< 1 ^^^ reduction a := by
  unfold xtime reduction
  split <;> simp

theorem reduction_xor (a b : Byte) : reduction (a ^^^ b) = reduction a ^^^ reduction b := by
  unfold reduction
  rw [BitVec.getLsbD_xor]
  cases a.getLsbD 7 <;> cases b.getLsbD 7 <;> simp

/-- Doubling is additive (R110). -/
theorem xtime_xor (a b : Byte) : xtime (a ^^^ b) = xtime a ^^^ xtime b := by
  rw [xtime_eq, xtime_eq, xtime_eq, BitVec.shiftLeft_xor_distrib, reduction_xor]
  ac_rfl

/-- In nine bits the shift keeps bit 7 of the operand as bit 8. -/
theorem setWidth_shiftLeft_one (a : Byte) :
    a.setWidth 9 <<< 1 = (a <<< 1).setWidth 9 ^^^ if a.getLsbD 7 then 0x100#9 else 0 := by
  ext i hi
  interval_cases i <;> cases h : a.getLsbD 7 <;> simp_all

/-- Bit 8 of the polynomial 0x11B clears what the shift put there, its low byte is the reducing byte (R111). -/
theorem setWidth_xtime (a : Byte) : (xtime a).setWidth 9 =
    if a.getLsbD 7 then (a.setWidth 9 <<< 1) ^^^ 0x11B#9 else a.setWidth 9 <<< 1 := by
  have hpoly : 0x11B#9 = 0x100#9 ^^^ Config.reducingByte.setWidth 9 := rfl
  rw [setWidth_shiftLeft_one, xtime, hpoly]
  split
  · rw [BitVec.setWidth_xor, BitVec.xor_assoc _ 0x100#9, ← BitVec.xor_assoc 0x100#9, BitVec.xor_self,
      BitVec.zero_xor]
  · exact BitVec.xor_zero.symm

/-! ### Multiplication and additive maps -/

/-- An additive map that commutes with doubling goes through the loop of R113: it acts on the accumulator and on the
multiplicand. -/
theorem map_gmulLoop {f : Byte → Byte} (hadd : ∀ a b, f (a ^^^ b) = f a ^^^ f b)
    (hx : ∀ a, f (xtime a) = xtime (f a)) (n : Nat) (acc a b : Byte) :
    f (gmulLoop n acc a b) = gmulLoop n (f acc) (f a) b := by
  induction n generalizing acc a b with
  | zero => rfl
  | succ n ih => rw [gmulLoop, gmulLoop, ih, hx, apply_ite f, hadd]

theorem map_gmul {f : Byte → Byte} (hadd : ∀ a b, f (a ^^^ b) = f a ^^^ f b)
    (hx : ∀ a, f (xtime a) = xtime (f a)) (a b : Byte) : f (gmul a b) = gmul (f a) b := by
  have h0 : f 0 = 0 := by simpa using hadd 0 0
  rw [gmul, map_gmulLoop hadd hx, h0, gmul]

/-- The loop is additive in the accumulator and the multiplicand together. -/
theorem gmulLoop_xor (n : Nat) (acc acc' a a' b : Byte) :
    gmulLoop n (acc ^^^ acc') (a ^^^ a') b = gmulLoop n acc a b ^^^ gmulLoop n acc' a' b := by
  induction n generalizing acc acc' a a' b with
  | zero => rfl
  | succ n ih =>
    have hsum : acc ^^^ acc' ^^^ (a ^^^ a') = (acc ^^^ a) ^^^ (acc' ^^^ a') := by ac_rfl
    simp only [gmulLoop]
    rw [← ih, xtime_xor, hsum]
    split <;> rfl

theorem xor_gmul (a a' b : Byte) : gmul (a ^^^ a') b = gmul a b ^^^ gmul a' b :=
  gmulLoop_xor Config.gmulIter 0 0 a a' b

theorem xtime_gmul (a b : Byte) : xtime (gmul a b) = gmul (xtime a) b :=
  map_gmul xtime_xor (fun _ => rfl) a b

/-! ### The laws of the field -/

theorem gmul_one (a : Byte) : gmul a 1 = a := by
  simp [gmul, gmulLoop, Config.gmulIter]

/-- One times a byte collects its bits again. -/
theorem one_gmul (b : Byte) : gmul 1 b = b := by
  revert b
  decide +kernel

/-- Multiplying by a byte is an additive map that commutes with doubling, so it goes through another product. -/
theorem gmul_right_comm (a b c : Byte) : gmul (gmul a b) c = gmul (gmul a c) b :=
  map_gmul (f := (gmul · c)) (fun a a' => xor_gmul a a' c) (fun a => (xtime_gmul a c).symm) a b

theorem gmul_comm (a b : Byte) : gmul a b = gmul b a := by
  have h := gmul_right_comm 1 a b
  rwa [one_gmul, one_gmul] at h

theorem gmul_assoc (a b c : Byte) : gmul (gmul a b) c = gmul a (gmul b c) :=
  calc gmul (gmul a b) c = gmul (gmul b a) c := by rw [gmul_comm a b]
    _ = gmul (gmul b c) a := gmul_right_comm b a c
    _ = gmul a (gmul b c) := gmul_comm _ _

theorem gmul_xor (a b c : Byte) : gmul a (b ^^^ c) = gmul a b ^^^ gmul a c := by
  rw [gmul_comm, xor_gmul, gmul_comm b, gmul_comm c]

theorem gmul_zero (a : Byte) : gmul a 0 = 0 := by
  simpa using gmul_xor a 0 0

theorem gmul_xtime (a b : Byte) : gmul a (xtime b) = xtime (gmul a b) := by
  rw [gmul_comm, ← xtime_gmul, gmul_comm]

/-! ### Products by constants -/

theorem gmul_two (a : Byte) : gmul a 2 = xtime a :=
  calc gmul a 2 = gmul a (xtime 1) := rfl
    _ = xtime a := by rw [gmul_xtime, gmul_one]

theorem gmul_four (a : Byte) : gmul a 4 = xtime (xtime a) :=
  calc gmul a 4 = gmul a (xtime 2) := rfl
    _ = xtime (xtime a) := by rw [gmul_xtime, gmul_two]

theorem gmul_eight (a : Byte) : gmul a 8 = xtime (xtime (xtime a)) :=
  calc gmul a 8 = gmul a (xtime 4) := rfl
    _ = xtime (xtime (xtime a)) := by rw [gmul_xtime, gmul_four]

theorem gmul_three (a : Byte) : gmul a 3 = xtime a ^^^ a :=
  calc gmul a 3 = gmul a (2 ^^^ 1) := rfl
    _ = xtime a ^^^ a := by rw [gmul_xor, gmul_two, gmul_one]

theorem nine_gmul (a : Byte) : gmul 0x09 a = xtime (xtime (xtime a)) ^^^ a :=
  calc gmul 0x09 a = gmul a (8 ^^^ 1) := gmul_comm _ _
    _ = _ := by rw [gmul_xor, gmul_eight, gmul_one]

theorem eleven_gmul (a : Byte) : gmul 0x0B a = xtime (xtime (xtime a)) ^^^ xtime a ^^^ a :=
  calc gmul 0x0B a = gmul a (8 ^^^ 2 ^^^ 1) := gmul_comm _ _
    _ = _ := by rw [gmul_xor, gmul_xor, gmul_eight, gmul_two, gmul_one]

theorem thirteen_gmul (a : Byte) : gmul 0x0D a = xtime (xtime (xtime a)) ^^^ xtime (xtime a) ^^^ a :=
  calc gmul 0x0D a = gmul a (8 ^^^ 4 ^^^ 1) := gmul_comm _ _
    _ = _ := by rw [gmul_xor, gmul_xor, gmul_eight, gmul_four, gmul_one]

theorem fourteen_gmul (a : Byte) :
    gmul 0x0E a = xtime (xtime (xtime a)) ^^^ xtime (xtime a) ^^^ xtime a :=
  calc gmul 0x0E a = gmul a (8 ^^^ 4 ^^^ 2) := gmul_comm _ _
    _ = _ := by rw [gmul_xor, gmul_xor, gmul_eight, gmul_four, gmul_two]

/-! ### Inverses -/

/-- The inverse of a byte other than zero, read off the forward table: `SBOX` holds the inverse under rotations and a
constant (R122), which three rotations and a constant undo. -/
def inverseFromSbox (a : Byte) : Byte :=
  (sboxAt a).rotateLeft 1 ^^^ (sboxAt a).rotateLeft 3 ^^^ (sboxAt a).rotateLeft 6 ^^^ 0x05

theorem gmul_inverseFromSbox : ∀ a : Byte, a ≠ 0 → gmul a (inverseFromSbox a) = 1 := by
  decide +kernel

/-- A byte has at most one inverse (R114). -/
theorem eq_of_gmul_eq_one {a x y : Byte} (hx : gmul a x = 1) (hy : gmul a y = 1) : y = x :=
  calc y = gmul (gmul a x) y := by rw [hx, one_gmul]
    _ = gmul (gmul a y) x := gmul_right_comm a x y
    _ = x := by rw [hy, one_gmul]

/-- Multiplying by 0x8D, the inverse of 2, undoes doubling (R112). -/
theorem gmul_half_xtime (a : Byte) : gmul (xtime a) 0x8D = a :=
  calc gmul (xtime a) 0x8D = gmul a (xtime 0x8D) := by rw [← xtime_gmul, gmul_xtime]
    _ = gmul a 1 := rfl
    _ = a := gmul_one a

/-! ### The statements -/

/-- Settles O43: the loop commutes with multiplication by a byte, so the product is commutative and associative; the
constants are sums of the powers 1, 2, 4 and 8 of `x`. -/
theorem fieldLaws : Obligations.FieldLaws := by
  refine ⟨fun a => ⟨gmul_zero a, gmul_one a, gmul_two a, gmul_three a⟩, gmul_comm, gmul_xor, gmul_assoc,
    fun a ha => ?_, ?_⟩
  · have hinv := gmul_inverseFromSbox a ha
    exact ⟨_, hinv, fun _ => eq_of_gmul_eq_one hinv⟩
  · rintro a _ _ _ rfl rfl rfl
    exact ⟨nine_gmul a, eleven_gmul a, thirteen_gmul a, fourteen_gmul a⟩

/-- Settles O42: multiplying by 0x8D undoes doubling, before it and after it. -/
theorem xtimeDoublesInTheField : Obligations.XtimeDoublesInTheField := by
  refine ⟨setWidth_xtime, fun a b h => ?_, fun b => ⟨gmul b 0x8D, ?_⟩⟩
  · rw [← gmul_half_xtime a, h, gmul_half_xtime]
  · rw [xtime_gmul, gmul_half_xtime]

end Sys2Proof.Machine
end

section
/-! PROOF. The substitution engine: the two tables (41_sbox_substitution.md R120 to R123), SUB and ISUB as the table on
each lane (R124, R125), and their laws with each other and with the row shifts (R126). -/

namespace Sys2Proof.Machine

/-! ### The tables -/

theorem sboxRom_length : sboxRom.length = 256 := by decide +kernel
theorem invSboxRom_length : invSboxRom.length = 256 := by decide +kernel

theorem invSboxAt_sboxAt : Function.LeftInverse invSboxAt sboxAt := by
  unfold Function.LeftInverse
  decide +kernel

theorem sboxAt_invSboxAt : Function.LeftInverse sboxAt invSboxAt := by
  unfold Function.LeftInverse
  decide +kernel

/-- No byte stands at its own address of `SBOX`, nor at that of its complement (R123). -/
theorem sboxAt_ne : ∀ x : Byte, sboxAt x ≠ x ∧ sboxAt x ≠ x ^^^ 0xFF := by decide +kernel

/-- The affine map that follows the field inverse (R122). -/
def affineMap (y : Byte) : Byte :=
  y ^^^ y.rotateLeft 1 ^^^ y.rotateLeft 2 ^^^ y.rotateLeft 3 ^^^ y.rotateLeft 4 ^^^ 0x63

/-- Three rotations and the constant 0x05 undo the affine map, whatever the table holds. -/
theorem affineMap_rotations :
    ∀ z : Byte, affineMap (z.rotateLeft 1 ^^^ z.rotateLeft 3 ^^^ z.rotateLeft 6 ^^^ 0x05) = z := by
  decide +kernel

theorem affineMap_inverseFromSbox (x : Byte) : affineMap (inverseFromSbox x) = sboxAt x :=
  affineMap_rotations (sboxAt x)

/-- The inverse of a byte is the one read off the forward table. -/
theorem eq_inverseFromSbox {x y : Byte} (h : gmul x y = 1) : y = inverseFromSbox x := by
  have hx : x ≠ 0 := by
    rintro rfl
    rw [gmul_comm, gmul_zero] at h
    exact absurd h (by decide)
  exact eq_of_gmul_eq_one (gmul_inverseFromSbox x hx) h

/-! ### Substitutions and row shifts of a block -/

theorem subBytes_eq_map (b : Block) : subBytes b = b.map sboxAt := by
  ext i hi
  simp [subBytes]

theorem invSubBytes_eq_map (b : Block) : invSubBytes b = b.map invSboxAt := by
  ext i hi
  simp [invSubBytes]

theorem invSubBytes_subBytes (b : Block) : invSubBytes (subBytes b) = b := by
  rw [subBytes_eq_map, invSubBytes_eq_map, Vector.map_map, invSboxAt_sboxAt.comp_eq_id, Vector.map_id]

theorem subBytes_invSubBytes (b : Block) : subBytes (invSubBytes b) = b := by
  rw [subBytes_eq_map, invSubBytes_eq_map, Vector.map_map, sboxAt_invSboxAt.comp_eq_id, Vector.map_id]

/-- A row shift moves bytes without looking at them, so it commutes with any map of the bytes (R126). -/
theorem shiftRows_map (f : Byte → Byte) (b : Block) : shiftRows (b.map f) = (shiftRows b).map f := by
  ext i hi
  simp [shiftRows]

theorem invShiftRows_map (f : Byte → Byte) (b : Block) : invShiftRows (b.map f) = (invShiftRows b).map f := by
  ext i hi
  simp [invShiftRows]

/-! ### Transforms one after another -/

section TransformSequence

variable {i j : Instr} {f g : Block → Block} {s : State}

/-- A transform at the head of a sequence, on a written `S`. -/
theorem execSeq_cons_of_written (hi : exec i = transform f) (is : List Instr) (h : s.S.written = true) :
    execSeq (i :: is) s = execSeq is (s.writeS (f s.S.bytes)).nextUpc := by
  rw [execSeq, hi, transform_of_written f h]

/-- A transform at the head of a sequence faults on an unwritten `S`, and nothing after it runs (R207). -/
theorem execSeq_cons_of_unwritten (hi : exec i = transform f) (is : List Instr) (h : s.S.written = false) :
    execSeq (i :: is) s = .fault .unwrittenRead := by
  rw [execSeq, hi, transform_of_unwritten f h]

theorem execSeq_pair_of_written (hi : exec i = transform f) (hj : exec j = transform g)
    (h : s.S.written = true) :
    execSeq [i, j] s = .next { s with S := Store.put (g (f s.S.bytes)), UPC := s.UPC + 1 + 1 } := by
  rw [execSeq_cons_of_written hi _ h, execSeq_cons_of_written hj _ (Store.put_written _)]
  rfl

/-- A transform and its inverse leave the state as it was, but for `UPC`. -/
theorem execSeq_pair_of_leftInverse (hi : exec i = transform f) (hj : exec j = transform g)
    (hgf : ∀ b, g (f b) = b) (h : s.S.written = true) :
    execSeq [i, j] s = .next { s with UPC := s.UPC + 2 } := by
  have hS : Store.put s.S.bytes = s.S := by rw [Store.put, ← h]
  rw [execSeq_pair_of_written hi hj h, hgf, hS, BitVec.add_assoc]
  rfl

/-- Transforms whose functions commute can change places, written `S` or not. -/
theorem execSeq_pair_comm (hi : exec i = transform f) (hj : exec j = transform g)
    (hfg : ∀ b, g (f b) = f (g b)) : execSeq [i, j] s = execSeq [j, i] s := by
  cases h : s.S.written with
  | true => rw [execSeq_pair_of_written hi hj h, execSeq_pair_of_written hj hi h, hfg]
  | false => rw [execSeq_cons_of_unwritten hi _ h, execSeq_cons_of_unwritten hj _ h]

end TransformSequence

theorem exec_sub : exec .sub = transform subBytes := rfl
theorem exec_isub : exec .isub = transform invSubBytes := rfl
theorem exec_shr : exec .shr = transform shiftRows := rfl
theorem exec_ishr : exec .ishr = transform invShiftRows := rfl

/-! ### The statements -/

/-- Settles O45: a byte other than zero has one inverse, the one read off the table, and the affine map takes it back to
the table's entry; zero has the entry 0x63. -/
theorem sboxConstruction : Obligations.SboxConstruction := by
  rintro x y (h | ⟨rfl, rfl⟩)
  · rw [eq_inverseFromSbox h]
    exact (affineMap_inverseFromSbox x).symm
  · decide

/-- Settles O47: the tables undo each other on every lane, and a row shift moves the lanes as they are. -/
theorem subAndIsubUndoAndCommute : Obligations.SubAndIsubUndoAndCommute := by
  refine ⟨fun s h => ⟨?_, ?_⟩, fun s => ⟨?_, ?_, ?_, ?_⟩⟩
  · exact execSeq_pair_of_leftInverse exec_sub exec_isub invSubBytes_subBytes h
  · exact execSeq_pair_of_leftInverse exec_isub exec_sub subBytes_invSubBytes h
  · exact execSeq_pair_comm exec_sub exec_shr fun b => by simp only [subBytes_eq_map, shiftRows_map]
  · exact execSeq_pair_comm exec_sub exec_ishr fun b => by simp only [subBytes_eq_map, invShiftRows_map]
  · exact execSeq_pair_comm exec_isub exec_shr fun b => by simp only [invSubBytes_eq_map, shiftRows_map]
  · exact execSeq_pair_comm exec_isub exec_ishr fun b => by simp only [invSubBytes_eq_map, invShiftRows_map]

/-- Settles O21: SUB is the transform that maps `SBOX` over the lanes, and `SBOX` has no fixed point. -/
theorem subSubstitutes : Obligations.SubSubstitutes := by
  refine ⟨rfl, fun s => ⟨fun h => ?_, transform_of_unwritten subBytes⟩⟩
  refine ⟨_, transform_of_written subBytes h, rfl, rfl, fun i hi => ?_⟩
  have hb : (subBytes s.S.bytes)[i] = sboxAt s.S.bytes[i] := by simp [subBytes_eq_map]
  exact ⟨hb, fun he => (sboxAt_ne _).1 (hb.symm.trans he)⟩

/-- Settles O22: ISUB is the transform that maps `INV_SBOX` over the lanes. -/
theorem isubSubstitutes : Obligations.IsubSubstitutes := by
  refine ⟨rfl, fun s => ⟨fun h => ?_, transform_of_unwritten invSubBytes⟩⟩
  refine ⟨_, transform_of_written invSubBytes h, rfl, rfl, fun i hi => ?_⟩
  show (invSubBytes s.S.bytes)[i] = invSboxAt s.S.bytes[i]
  simp [invSubBytes_eq_map]

/-- Settles O44: each table undoes the other, so `SBOX` is onto. -/
theorem sboxTablesAreInverse : Obligations.SboxTablesAreInverse := by
  exact ⟨sboxRom_length, invSboxRom_length, fun x => ⟨invSboxAt_sboxAt x, sboxAt_invSboxAt x⟩,
    sboxAt_invSboxAt.surjective, sboxAt_ne, by decide⟩

end Sys2Proof.Machine
end

section
/-! PROOF. Row shifting: SHR applied `n` times shifts row `r` left by `n*r`, and ISHR is SHR three times; the laws of
SHR and ISHR follow from these two facts (42_shift_rows.md R130 to R133). -/

namespace Sys2Proof.Machine

/-! ### The bytes of a shifted block, by row and column -/

/-- A block is its sixteen bytes, by column and row (R130). -/
theorem block_eq_of_column_row {a b : Block}
    (h : ∀ c r (_ : c < 4) (_ : r < 4), a[4 * c + r] = b[4 * c + r]) : a = b := by
  refine Vector.ext fun i hi => ?_
  have hbyte := h (i / 4) (i % 4) (by omega) (by omega)
  simpa only [Nat.div_add_mod] using hbyte

section Lanes

variable {c r : Nat} (b : Block) (hc : c < 4) (hr : r < 4)

theorem getElem_shiftRows : (shiftRows b)[4 * c + r] = b[4 * ((c + r) % 4) + r] := by
  simp only [shiftRows, Vector.getElem_ofFn]
  exact getElem_congr_idx (by omega)

theorem getElem_invShiftRows : (invShiftRows b)[4 * c + r] = b[4 * ((c + 4 - r) % 4) + r] := by
  simp only [invShiftRows, Vector.getElem_ofFn]
  exact getElem_congr_idx (by omega)

/-- Left shifts of a row add up (R130). -/
theorem getElem_shiftRows_iterate (n : Nat) :
    (shiftRows^[n] b)[4 * c + r] = b[4 * ((c + n * r) % 4) + r] := by
  induction n generalizing b with
  | zero => exact getElem_congr_idx (by omega)
  | succ n ih =>
    have hcol : ((c + n * r) % 4 + r) % 4 = (c + (n + 1) * r) % 4 := by
      rw [Nat.mod_add_mod, Nat.succ_mul, Nat.add_assoc]
    calc (shiftRows^[n + 1] b)[4 * c + r] = (shiftRows b)[4 * ((c + n * r) % 4) + r] := ih (shiftRows b)
      _ = b[4 * (((c + n * r) % 4 + r) % 4) + r] := getElem_shiftRows b (Nat.mod_lt _ (by decide)) hr
      _ = b[4 * ((c + (n + 1) * r) % 4) + r] := getElem_congr_idx (by rw [hcol])

end Lanes

/-! ### SHR four times, and ISHR as SHR three times -/

/-- A left shift by `4*r` leaves row `r` as it is (R131). -/
theorem shiftRows_iterate_four (b : Block) : shiftRows^[4] b = b :=
  block_eq_of_column_row fun c r hc hr =>
    (getElem_shiftRows_iterate b hc hr 4).trans (getElem_congr_idx (by omega))

/-- A left shift by `3*r` is a right shift by `r` (R132, with the correction of C1). -/
theorem shiftRows_iterate_three (b : Block) : shiftRows^[3] b = invShiftRows b :=
  block_eq_of_column_row fun c r hc hr => by
    rw [getElem_shiftRows_iterate b hc hr, getElem_invShiftRows b hc hr]
    exact getElem_congr_idx (by omega)

/-- ISHR after SHR is SHR four times (R133). -/
theorem invShiftRows_shiftRows (b : Block) : invShiftRows (shiftRows b) = b :=
  (shiftRows_iterate_three (shiftRows b)).symm.trans (shiftRows_iterate_four b)

/-- SHR after ISHR is SHR four times (R133). -/
theorem shiftRows_invShiftRows (b : Block) : shiftRows (invShiftRows b) = b := by
  rw [← shiftRows_iterate_three]
  exact shiftRows_iterate_four b

/-! ### One transform several times -/

/-- Writing back the bytes of a written register changes nothing. -/
theorem Store.put_bytes_of_written {st : Store} (h : st.written = true) : Store.put st.bytes = st := by
  rw [Store.put, ← h]

/-- A transform `n` times over: `S` holds the `n`-fold iterate and `UPC` has gone on by `n`. -/
theorem execSeq_replicate_of_written {i : Instr} {f : Block → Block} (hi : exec i = transform f) (n : Nat)
    {s : State} (h : s.S.written = true) :
    execSeq (List.replicate n i) s =
      .next { s with S := Store.put (f^[n] s.S.bytes), UPC := s.UPC + BitVec.ofNat 7 n } := by
  induction n generalizing s with
  | zero =>
    have hU : s.UPC + BitVec.ofNat 7 0 = s.UPC := BitVec.add_zero _
    rw [Function.iterate_zero_apply, Store.put_bytes_of_written h, hU]
    rfl
  | succ n ih =>
    have hU : s.UPC + 1 + BitVec.ofNat 7 n = s.UPC + BitVec.ofNat 7 (n + 1) := by bv_omega
    rw [List.replicate_succ, execSeq_cons_of_written hi _ h, ih (Store.put_written _), ← hU]
    rfl

/-- A transform whose `n`-fold iterate is the identity, `n` times over, moves `UPC` and nothing else. -/
theorem execSeq_replicate_of_iterate_eq {i : Instr} {f : Block → Block} (hi : exec i = transform f) {n : Nat}
    (hf : ∀ b, f^[n] b = b) {s : State} (h : s.S.written = true) :
    execSeq (List.replicate n i) s = .next { s with UPC := s.UPC + BitVec.ofNat 7 n } := by
  rw [execSeq_replicate_of_written hi n h, hf, Store.put_bytes_of_written h]

/-! ### The statements -/

/-- Settles O48: ISHR is SHR three times, and SHR four times is the identity; two SHR move the one
byte of row 1 that is not zero. -/
theorem shrAndIshrUndo : Obligations.ShrAndIshrUndo := by
  refine ⟨fun s h => ⟨?_, ?_, ?_, ?_⟩, ?_⟩
  · exact execSeq_pair_of_leftInverse exec_shr exec_ishr invShiftRows_shiftRows h
  · exact execSeq_pair_of_leftInverse exec_ishr exec_shr shiftRows_invShiftRows h
  · exact execSeq_replicate_of_iterate_eq exec_shr shiftRows_iterate_four h
  · exact ⟨_, _, execSeq_replicate_of_written exec_shr 3 h, transform_of_written invShiftRows h,
      congrArg Store.put (shiftRows_iterate_three s.S.bytes)⟩
  · exact ⟨State.reset.writeS (zeroBlock.set 1 1), _, execSeq_replicate_of_written exec_shr 2 rfl, by decide⟩

/-- Settles O23: SHR is the transform that shifts row `r` left by `r`. -/
theorem shrShiftsRowsLeft : Obligations.ShrShiftsRowsLeft := by
  refine ⟨rfl, fun s => ⟨fun h => ?_, transform_of_unwritten shiftRows⟩⟩
  exact ⟨_, transform_of_written shiftRows h, rfl, rfl, fun c r hc hr => getElem_shiftRows s.S.bytes hc hr⟩

/-- Settles O24: ISHR is the transform that shifts row `r` right by `r`, so the byte that goes to column `c + r` comes
from column `c`. -/
theorem ishrShiftsRowsRight : Obligations.IshrShiftsRowsRight := by
  refine ⟨rfl, fun s => ⟨fun h => ?_, transform_of_unwritten invShiftRows⟩⟩
  refine ⟨_, transform_of_written invShiftRows h, rfl, rfl, fun c r hc hr => ?_⟩
  calc (invShiftRows s.S.bytes)[4 * ((c + r) % 4) + r]
      = s.S.bytes[4 * (((c + r) % 4 + 4 - r) % 4) + r] :=
        getElem_invShiftRows s.S.bytes (Nat.mod_lt _ (by decide)) hr
    _ = s.S.bytes[4 * c + r] := getElem_congr_idx (by omega)

end Sys2Proof.Machine
end

section
/-! PROOF. Column mixing. The rows of each transform of a column are rotations of one row, so a law of columns is a law
of one row of four bytes. MIX twice adds to each byte of a column four times its sum with the byte two rows down; hence
MIX four times is the identity and MIX three times is IMIX. The laws of the two transforms follow from these facts,
carried to blocks (43_mix_columns.md R140 to R145). -/

namespace Sys2Proof.Machine

/-! ### Transforms of a column with rotated rows -/

/-- One output byte of a column: a function of the byte in its own row and of the three below it, going round. -/
abbrev Row := Byte → Byte → Byte → Byte → Byte

/-- The transform whose rows are each the row above rotated one place to the right (R143). -/
def circulant (f : Row) (a : KeyWord) : KeyWord :=
  #v[f a[0] a[1] a[2] a[3], f a[1] a[2] a[3] a[0], f a[2] a[3] a[0] a[1], f a[3] a[0] a[1] a[2]]

/-- The row of `circulant f` after `circulant g`. -/
def Row.comp (f g : Row) : Row := fun a b c d => f (g a b c d) (g b c d a) (g c d a b) (g d a b c)

theorem circulant_circulant (f g : Row) (a : KeyWord) :
    circulant f (circulant g a) = circulant (f.comp g) a := rfl

theorem circulant_fst (a : KeyWord) : circulant (fun x _ _ _ => x) a = a :=
  Vector.ext fun i hi => by interval_cases i <;> rfl

theorem getElem_xorBytes {n : Nat} (a b : Vector Byte n) {i : Nat} (hi : i < n) :
    (xorBytes a b)[i] = a[i] ^^^ b[i] := by
  simp [xorBytes]

theorem circulant_xorBytes {f : Row} (hf : ∀ a b c d a' b' c' d',
    f (a ^^^ a') (b ^^^ b') (c ^^^ c') (d ^^^ d') = f a b c d ^^^ f a' b' c' d') (x y : KeyWord) :
    circulant f (xorBytes x y) = xorBytes (circulant f x) (circulant f y) := by
  simp only [circulant, getElem_xorBytes, hf]
  rfl

/-! ### The rows of MIX and IMIX -/

/-- A row of R141. -/
def mixRow : Row := fun a b c d => a ^^^ (a ^^^ b ^^^ c ^^^ d) ^^^ xtime (a ^^^ b)

/-- A row of MIX twice. -/
def mixTwiceRow : Row := fun a _ c _ => a ^^^ xtime (xtime (a ^^^ c))

/-- A row of R143. -/
def invMixRow : Row := fun a b c d => gmul 0x0E a ^^^ gmul 0x0B b ^^^ gmul 0x0D c ^^^ gmul 0x09 d

theorem mixColumn_eq_circulant (a : KeyWord) : mixColumn a = circulant mixRow a := by
  simp only [mixColumn, circulant, mixRow, xtime_xor]
  ac_rfl

theorem invMixColumn_eq_circulant (a : KeyWord) : invMixColumn a = circulant invMixRow a := by
  simp only [invMixColumn, circulant, invMixRow]
  ac_rfl

/-- With associativity and commutativity it sorts a sum, so that equal summands meet and cancel. -/
theorem byte_xor_left_comm (a b c : Byte) : a ^^^ (b ^^^ c) = b ^^^ (a ^^^ c) := by ac_rfl

/-- The coefficients of a row of R142. -/
theorem mixRow_eq_gmul (a b c d : Byte) : mixRow a b c d = gmul 2 a ^^^ gmul 3 b ^^^ c ^^^ d := by
  rw [gmul_comm 2, gmul_comm 3, gmul_two, gmul_three]
  simp [mixRow, xtime_xor, BitVec.xor_assoc, BitVec.xor_comm, byte_xor_left_comm]

theorem mixRow_comp_mixRow : mixRow.comp mixRow = mixTwiceRow := by
  funext a b c d
  simp [Row.comp, mixRow, mixTwiceRow, xtime_xor, BitVec.xor_assoc, BitVec.xor_comm, byte_xor_left_comm]

theorem mixTwiceRow_comp_mixTwiceRow : mixTwiceRow.comp mixTwiceRow = fun a _ _ _ => a := by
  funext a b c d
  simp [Row.comp, mixTwiceRow, xtime_xor, BitVec.xor_assoc, BitVec.xor_comm]

/-- The coefficients of R143 are `8 + 4 + 2`, `8 + 2 + 1`, `8 + 4 + 1` and `8 + 1`. -/
theorem mixTwiceRow_comp_mixRow : mixTwiceRow.comp mixRow = invMixRow := by
  funext a b c d
  simp only [invMixRow, nine_gmul, eleven_gmul, thirteen_gmul, fourteen_gmul]
  simp [Row.comp, mixRow, mixTwiceRow, xtime_xor, BitVec.xor_assoc, BitVec.xor_comm, byte_xor_left_comm]

/-! ### One column -/

theorem mixColumn_mixColumn (a : KeyWord) : mixColumn (mixColumn a) = circulant mixTwiceRow a := by
  rw [mixColumn_eq_circulant a, mixColumn_eq_circulant, circulant_circulant, mixRow_comp_mixRow]

theorem mixColumn_iterate_four (a : KeyWord) : mixColumn^[4] a = a := by
  show mixColumn (mixColumn (mixColumn (mixColumn a))) = a
  rw [mixColumn_mixColumn a, mixColumn_mixColumn, circulant_circulant, mixTwiceRow_comp_mixTwiceRow, circulant_fst]

theorem mixColumn_iterate_three (a : KeyWord) : mixColumn^[3] a = invMixColumn a := by
  show mixColumn (mixColumn (mixColumn a)) = invMixColumn a
  rw [mixColumn_mixColumn, mixColumn_eq_circulant, circulant_circulant, mixTwiceRow_comp_mixRow,
    invMixColumn_eq_circulant]

theorem mixColumn_xorBytes (a b : KeyWord) :
    mixColumn (xorBytes a b) = xorBytes (mixColumn a) (mixColumn b) := by
  simp only [mixColumn_eq_circulant]
  refine circulant_xorBytes (fun a b c d a' b' c' d' => ?_) a b
  simp only [mixRow, xtime_xor]
  ac_rfl

/-- One column as the product with the matrix of R142. -/
def mixMatrixColumn (a : KeyWord) : KeyWord :=
  #v[gmul 2 a[0] ^^^ gmul 3 a[1] ^^^ a[2] ^^^ a[3],
     a[0] ^^^ gmul 2 a[1] ^^^ gmul 3 a[2] ^^^ a[3],
     a[0] ^^^ a[1] ^^^ gmul 2 a[2] ^^^ gmul 3 a[3],
     gmul 3 a[0] ^^^ a[1] ^^^ a[2] ^^^ gmul 2 a[3]]

theorem mixColumn_eq_mixMatrixColumn : mixColumn = mixMatrixColumn := by
  funext a
  simp only [mixColumn_eq_circulant, circulant, mixRow_eq_gmul, mixMatrixColumn]
  ac_rfl

/-! ### From columns to blocks -/

section Columns

variable (f g : KeyWord → KeyWord) (b : Block)

theorem getElem_column (c : Fin 4) {r : Nat} (hr : r < 4) : (column b c)[r] = b[4 * c.val + r] := by
  interval_cases r <;> rfl

theorem getElem_mapColumns {c r : Nat} (hc : c < 4) (hr : r < 4) :
    (mapColumns f b)[4 * c + r] = (f (column b ⟨c, hc⟩))[r] := by
  have hcol : (4 * c + r) / 4 = c := by omega
  have hrow : (4 * c + r) % 4 = r := by omega
  simp [mapColumns, hcol, hrow]

theorem column_mapColumns (c : Fin 4) : column (mapColumns f b) c = f (column b c) :=
  Vector.ext fun r hr => by rw [getElem_column _ _ hr, getElem_mapColumns f b c.isLt hr]

/-- The columns do not interact, so maps of the columns compose column by column (R140). -/
theorem mapColumns_mapColumns : mapColumns g (mapColumns f b) = mapColumns (g ∘ f) b :=
  block_eq_of_column_row fun c r hc hr => by
    rw [getElem_mapColumns _ _ hc hr, getElem_mapColumns _ _ hc hr, column_mapColumns, Function.comp_apply]

theorem mapColumns_id : mapColumns id b = b :=
  block_eq_of_column_row fun c r hc hr => by
    rw [getElem_mapColumns _ _ hc hr, id, getElem_column _ _ hr]

theorem mapColumns_iterate (n : Nat) : (mapColumns f)^[n] b = mapColumns f^[n] b := by
  induction n generalizing b with
  | zero => exact (mapColumns_id b).symm
  | succ n ih => rw [Function.iterate_succ_apply, ih, mapColumns_mapColumns, Function.iterate_succ]

theorem column_xorBytes (a b : Block) (c : Fin 4) :
    column (xorBytes a b) c = xorBytes (column a c) (column b c) :=
  Vector.ext fun r hr => by
    rw [getElem_column _ _ hr, getElem_xorBytes, getElem_xorBytes, getElem_column _ _ hr, getElem_column _ _ hr]

theorem mapColumns_xorBytes (hf : ∀ x y, f (xorBytes x y) = xorBytes (f x) (f y)) (a b : Block) :
    mapColumns f (xorBytes a b) = xorBytes (mapColumns f a) (mapColumns f b) :=
  block_eq_of_column_row fun c r hc hr => by
    rw [getElem_xorBytes, getElem_mapColumns _ _ hc hr, getElem_mapColumns _ _ hc hr,
      getElem_mapColumns _ _ hc hr, column_xorBytes, hf, getElem_xorBytes]

/-- The four bytes of a mapped column. -/
theorem bytes_mapColumns {c : Nat} (hc : c < 4) :
    (mapColumns f b)[4 * c] = (f (column b ⟨c, hc⟩))[0] ∧
    (mapColumns f b)[4 * c + 1] = (f (column b ⟨c, hc⟩))[1] ∧
    (mapColumns f b)[4 * c + 2] = (f (column b ⟨c, hc⟩))[2] ∧
    (mapColumns f b)[4 * c + 3] = (f (column b ⟨c, hc⟩))[3] :=
  have row (r : Nat) (hr : r < 4) := getElem_mapColumns f b hc hr
  ⟨row 0 (by decide), row 1 (by decide), row 2 (by decide), row 3 (by decide)⟩

end Columns

/-! ### MIX and IMIX on blocks -/

theorem exec_mix : exec .mix = transform mixColumns := rfl
theorem exec_imix : exec .imix = transform invMixColumns := rfl

theorem mixColumns_iterate_four (b : Block) : mixColumns^[4] b = b := by
  have h4 : mixColumn^[4] = id := funext mixColumn_iterate_four
  calc mixColumns^[4] b = mapColumns mixColumn^[4] b := mapColumns_iterate mixColumn b 4
    _ = b := by rw [h4, mapColumns_id]

theorem mixColumns_iterate_three (b : Block) : mixColumns^[3] b = invMixColumns b := by
  have h3 : mixColumn^[3] = invMixColumn := funext mixColumn_iterate_three
  calc mixColumns^[3] b = mapColumns mixColumn^[3] b := mapColumns_iterate mixColumn b 3
    _ = invMixColumns b := by rw [h3, invMixColumns]

/-- IMIX after MIX is MIX four times (R144). -/
theorem invMixColumns_mixColumns (b : Block) : invMixColumns (mixColumns b) = b :=
  (mixColumns_iterate_three (mixColumns b)).symm.trans (mixColumns_iterate_four b)

/-- MIX after IMIX is MIX four times (R144). -/
theorem mixColumns_invMixColumns (b : Block) : mixColumns (invMixColumns b) = b := by
  rw [← mixColumns_iterate_three]
  exact mixColumns_iterate_four b

theorem mixColumns_xorBytes (a b : Block) :
    mixColumns (xorBytes a b) = xorBytes (mixColumns a) (mixColumns b) :=
  mapColumns_xorBytes mixColumn mixColumn_xorBytes a b

/-! ### The statements -/

/-- Settles O26: the doublings of R141 are the products by 2 and 3 of R142. -/
theorem mixIsTheMatrixProduct : Obligations.MixIsTheMatrixProduct := by
  refine fun s h => ⟨(s.writeS (mapColumns mixMatrixColumn s.S.bytes)).nextUpc, ?_, ?_⟩
  · rw [← mixColumn_eq_mixMatrixColumn]
    exact transform_of_written mixColumns h
  · rintro c hc _ _ _ _ rfl rfl rfl rfl
    exact bytes_mapColumns mixMatrixColumn s.S.bytes hc

/-- Settles O49: IMIX is MIX three times, and MIX four times is the identity. -/
theorem mixAndImixUndo : Obligations.MixAndImixUndo := by
  refine fun s h => ⟨?_, ?_, ?_, ?_⟩
  · exact execSeq_pair_of_leftInverse exec_mix exec_imix invMixColumns_mixColumns h
  · exact execSeq_pair_of_leftInverse exec_imix exec_mix mixColumns_invMixColumns h
  · exact execSeq_replicate_of_iterate_eq exec_mix mixColumns_iterate_four h
  · exact ⟨_, _, execSeq_replicate_of_written exec_mix 3 h, transform_of_written invMixColumns h,
      congrArg Store.put (mixColumns_iterate_three s.S.bytes)⟩

/-- Settles O50: doubling is additive, hence so is MIX, and IMIX is MIX three times. -/
theorem columnMixesAreLinear : Obligations.ColumnMixesAreLinear := by
  refine fun a b => ⟨mixColumns_xorBytes a b, ?_⟩
  simp only [← mixColumns_iterate_three, Function.iterate_succ_apply, Function.iterate_zero_apply,
    mixColumns_xorBytes]

/-- Settles O25: MIX is the transform that puts each column through R141. -/
theorem mixMixesColumns : Obligations.MixMixesColumns := by
  refine ⟨rfl, fun s => ⟨fun h => ?_, transform_of_unwritten mixColumns⟩⟩
  refine ⟨_, transform_of_written mixColumns h, rfl, rfl, ?_⟩
  rintro c hc _ _ _ _ _ rfl rfl rfl rfl rfl
  exact bytes_mapColumns mixColumn s.S.bytes hc

/-- Settles O27: IMIX is the transform that puts each column through R143. -/
theorem imixMixesColumns : Obligations.ImixMixesColumns := by
  refine ⟨rfl, fun s => ⟨fun h => ?_, transform_of_unwritten invMixColumns⟩⟩
  refine ⟨_, transform_of_written invMixColumns h, rfl, rfl, ?_⟩
  rintro c hc _ _ _ _ rfl rfl rfl rfl
  exact bytes_mapColumns invMixColumn s.S.bytes hc

end Sys2Proof.Machine
end

section
/-! PROOF. Key addition: what a legal ARK answers, by whether `S` and its round key are written, alone and one after
another. ARK leaves RK and the mark of `S`, so the second of two reads what it would have read first
(44_add_round_key.md R150, R151). -/

namespace Sys2Proof.Machine

/-! ### Byte-wise sums -/

/-- A byte is its own inverse under exclusive-or, lane by lane (R151). -/
theorem xorBytes_xorBytes_cancel {n : Nat} (b k : Vector Byte n) : xorBytes (xorBytes b k) k = b :=
  Vector.ext fun i hi => by
    rw [getElem_xorBytes _ _ hi, getElem_xorBytes _ _ hi, BitVec.xor_assoc, BitVec.xor_self, BitVec.xor_zero]

theorem xorBytes_right_comm {n : Nat} (b k k' : Vector Byte n) :
    xorBytes (xorBytes b k) k' = xorBytes (xorBytes b k') k :=
  Vector.ext fun i hi => by
    simp only [getElem_xorBytes _ _ hi]
    ac_rfl

/-! ### Reading a round key -/

/-- One unwritten byte makes a wide read fail. -/
theorem Memory.readVec_eq_none_of_read {m : Memory} {a n i : Nat} (hi : i < n) (h : m.read (a + i) = none) :
    m.readVec a n = none := by
  refine Option.eq_none_iff_forall_ne_some.2 fun v hv => ?_
  have hb := (Memory.readVec_eq_some_iff m a v).1 hv i hi
  exact nomatch h.symm.trans hb

/-! ### One ARK -/

/-- The word of `ARK r` is 0x30 plus its number. -/
theorem add_setWidth_eq_uopWord (r : BitVec 4) : 0x30 + r.setWidth 8 = uopWord 0x3 r := by
  revert r
  decide

section OneArk

variable {r : BitVec 4} {s : State} {k : Block}

/-- A legal ARK on written bytes adds its round key to `S`. -/
theorem exec_ark_of_readable (hr : r.toNat ≤ 10) (hk : s.RK.readVec (16 * r.toNat) 16 = some k)
    (hS : s.S.written = true) : exec (.ark r) s = .next (s.writeS (xorBytes s.S.bytes k)).nextUpc :=
  (execArk_eq_next_iff r s _).2 ⟨(legalRound_iff r).2 hr, k, hk, hS, rfl⟩

/-- A legal ARK faults when `S` or a byte of its round key is unwritten. -/
theorem exec_ark_of_unreadable (hr : r.toNat ≤ 10)
    (h : s.S.written = false ∨ s.RK.readVec (16 * r.toNat) 16 = none) :
    exec (.ark r) s = .fault .unwrittenRead := by
  show execArk r s = _
  rw [execArk, if_pos ((legalRound_iff r).2 hr), roundKeyAddr]
  rcases h with hS | hk
  · cases s.RK.readVec (16 * r.toNat) 16 with
    | none => rfl
    | some k => exact transform_of_unwritten _ hS
  · rw [hk]

/-- ARK with a number above 10 is the fault of an illegal word. -/
theorem exec_ark_of_gt (hr : 10 < r.toNat) : exec (.ark r) s = .fault .illegalUop :=
  if_neg fun hl => Nat.not_le_of_gt hr ((legalRound_iff r).1 hl)

end OneArk

/-! ### Two ARKs -/

section TwoArks

variable {i : Instr} {q r : BitVec 4} {s t : State} {k l : Block}

theorem execSeq_cons_of_next (is : List Instr) (h : exec i s = .next t) : execSeq (i :: is) s = execSeq is t := by
  rw [execSeq, h]

theorem execSeq_cons_of_fault {f : Fault} (is : List Instr) (h : exec i s = .fault f) :
    execSeq (i :: is) s = .fault f := by
  rw [execSeq, h]

/-- Two legal ARKs with everything they read written add both round keys: the second finds RK as the first found it. -/
theorem execSeq_ark_ark_of_readable (hq : q.toNat ≤ 10) (hr : r.toNat ≤ 10)
    (hk : s.RK.readVec (16 * q.toNat) 16 = some k) (hl : s.RK.readVec (16 * r.toNat) 16 = some l)
    (hS : s.S.written = true) :
    execSeq [.ark q, .ark r] s =
      .next { s with S := Store.put (xorBytes (xorBytes s.S.bytes k) l), UPC := s.UPC + 2 } := by
  have hU : s.UPC + 2 = s.UPC + 1 + 1 := by bv_omega
  have hfirst := exec_ark_of_readable hq hk hS
  have hsecond := exec_ark_of_readable (s := (s.writeS (xorBytes s.S.bytes k)).nextUpc) hr hl rfl
  rw [execSeq_cons_of_next _ hfirst, execSeq_cons_of_next _ hsecond, hU]
  rfl

/-- Two legal ARKs fault, the first or the second, when a byte that either reads is unwritten. -/
theorem execSeq_ark_ark_of_unreadable (hq : q.toNat ≤ 10) (hr : r.toNat ≤ 10)
    (h : s.S.written = false ∨ s.RK.readVec (16 * q.toNat) 16 = none ∨ s.RK.readVec (16 * r.toNat) 16 = none) :
    execSeq [.ark q, .ark r] s = .fault .unwrittenRead := by
  by_cases hfirst : s.S.written = false ∨ s.RK.readVec (16 * q.toNat) 16 = none
  · exact execSeq_cons_of_fault _ (exec_ark_of_unreadable hq hfirst)
  · have hl := (or_assoc.2 h).resolve_left hfirst
    obtain ⟨hS, hk⟩ := not_or.1 hfirst
    obtain ⟨k, hk⟩ := Option.ne_none_iff_exists'.1 hk
    rw [execSeq_cons_of_next _ (exec_ark_of_readable hq hk (Bool.eq_true_of_not_eq_false hS))]
    exact execSeq_cons_of_fault _ (exec_ark_of_unreadable hr (.inr hl))

end TwoArks

/-! ### The statements -/

/-- Settles O28: the three outcomes of ARK, each from what its round number and the written bytes allow. -/
theorem arkAddsRoundKey : Obligations.ArkAddsRoundKey := by
  refine ⟨fun s r hr => ⟨?_, fun hS hRK => ?_, fun h => exec_ark_of_unreadable hr ?_⟩, fun s r => exec_ark_of_gt⟩
  · rw [add_setWidth_eq_uopWord, decodeUop_arkWord, decodeArk_uopWord hr]
  · obtain ⟨k, hk⟩ := Memory.exists_readVec ((Memory.covers_iff s.RK _ _).2 hRK)
    refine ⟨_, exec_ark_of_readable hr hk hS, rfl, rfl, fun i hi => ?_⟩
    exact ⟨k[i], (Memory.readVec_eq_some_iff s.RK _ k).1 hk i hi, getElem_xorBytes s.S.bytes k hi⟩
  · exact h.imp_right fun ⟨i, hi, hb⟩ => Memory.readVec_eq_none_of_read hi hb

/-- Settles O51: a round key cancels itself and two of them add up in either order; where a byte is unwritten, both orders
fault. -/
theorem arkTwiceRestores : Obligations.ArkTwiceRestores := by
  refine ⟨fun s r hr hS hc => ?_, fun s q r hq hr => ?_⟩
  · obtain ⟨k, hk⟩ := Memory.exists_readVec hc
    rw [execSeq_ark_ark_of_readable hr hr hk hk hS, xorBytes_xorBytes_cancel, Store.put_bytes_of_written hS]
  · by_cases h : s.S.written = false ∨ s.RK.readVec (16 * q.toNat) 16 = none ∨ s.RK.readVec (16 * r.toNat) 16 = none
    · rw [execSeq_ark_ark_of_unreadable hq hr h, execSeq_ark_ark_of_unreadable hr hq (h.imp_right Or.symm)]
    · obtain ⟨hS, h⟩ := not_or.1 h
      obtain ⟨hk, hl⟩ := not_or.1 h
      rw [Bool.not_eq_false] at hS
      obtain ⟨k, hk⟩ := Option.ne_none_iff_exists'.1 hk
      obtain ⟨l, hl⟩ := Option.ne_none_iff_exists'.1 hl
      rw [execSeq_ark_ark_of_readable hq hr hk hl hS, execSeq_ark_ark_of_readable hr hq hl hk hS,
        xorBytes_right_comm]

end Sys2Proof.Machine
end

section
/-! PROOF. The key schedule: KEXP by the word recurrence, its dependence on the key alone, and the round constants
(45_key_schedule.md R155 to R160). -/

namespace Sys2Proof.Machine

/-! ### The words of the schedule -/

/-- The recurrence of R157 by the number of the word it makes. -/
theorem scheduleWord_of_four_le (key : Block) {w : Nat} (h : 4 ≤ w) :
    scheduleWord key w =
      xorBytes (scheduleWord key (w - 4))
        (if w % 4 = 0 then scheduleCore (scheduleWord key (w - 1)) (w / 4) else scheduleWord key (w - 1)) := by
  obtain ⟨n, rfl⟩ := Nat.exists_eq_add_of_le' h
  exact scheduleWord_add_four key n

/-! ### Memories that hold the schedule of a key -/

namespace HoldsSchedule

variable {rk rk' : Memory} {key : Block} {m n a : Nat}

/-- A byte inside the schedule's words is byte `a mod 4` of word `a div 4`. -/
theorem read_eq_some (h : HoldsSchedule rk key n) (ha : a < 4 * n) :
    rk.read a = some ((scheduleWord key (a / 4))[a % 4]'(Nat.mod_lt a (by decide))) := by
  have hb := h (a / 4) (by omega) (a % 4) (Nat.mod_lt a (by decide))
  rwa [Nat.div_add_mod] at hb

/-- Two memories read alike as far as both hold the schedule of one key. -/
theorem read_eq_read (h : HoldsSchedule rk key m) (h' : HoldsSchedule rk' key n) (hm : a < 4 * m)
    (hn : a < 4 * n) : rk.read a = rk'.read a :=
  (h.read_eq_some hm).trans (h'.read_eq_some hn).symm

/-- The schedule begins with the key, as a memory does that the key has just been written to (R160). -/
theorem read_key (h : HoldsSchedule rk key 44) {i : Nat} (hi : i < 16) : rk.read i = some key[i] := by
  rw [h.read_eq_read (HoldsSchedule.writeKey rk key) (by omega) hi, Memory.read_writeVec, dif_pos (by omega)]
  rfl

/-- Canonical memories that hold the whole schedule of one key are the same data: beyond it both are unwritten. -/
theorem eq_of_wf (h : HoldsSchedule rk key 44) (h' : HoldsSchedule rk' key 44) (hw : rk.wf = true)
    (hw' : rk'.wf = true) : rk = rk' := by
  refine Memory.eq_of_read_eq hw hw' fun a => ?_
  rcases Nat.lt_or_ge a 176 with ha | ha
  · exact h.read_eq_read h' ha ha
  · rw [Memory.read_eq_none_of_ge rk hw ha, Memory.read_eq_none_of_ge rk' hw' ha]

end HoldsSchedule

/-- KEXP with an unwritten `K` faults (R156, R207). -/
theorem exec_kexp_of_unwritten {s : State} (h : s.K.written = false) : exec .kexp s = .fault .unwrittenRead := by
  show execKexp s = _
  rw [execKexp, (Store.read_eq_none_iff _).2 h]

/-! ### The statements -/

/-- Settles O29: the loop of KEXP leaves the whole schedule, whose words meet the recurrence; the sum at a multiple of 4 is
`scheduleCore` written out. -/
theorem kexpExpandsKey : Obligations.KexpExpandsKey := by
  refine ⟨rfl, fun s => ⟨fun hK => ?_, exec_kexp_of_unwritten⟩⟩
  obtain ⟨rk, e, hs, hframe, _⟩ := kexpLoop_spec s.RK s.K.bytes
  refine ⟨_, (execKexp_eq_next_iff s _).2 ⟨hK, rk, e, rfl⟩, rfl, fun i => hs.read_key, fun w hw hlt => ?_, hframe⟩
  refine ⟨_, _, hs.readVec (by omega), hs.readVec (by omega), (hs.readVec hlt).trans (congrArg some ?_)⟩
  exact scheduleWord_of_four_le s.K.bytes hw

/-- Settles O30: both stores hold the schedule of the one key. -/
theorem kexpIsPureInTheKey : Obligations.KexpIsPureInTheKey := by
  intro s u hK hkey
  obtain ⟨rk, e, hs, hw⟩ := exec_kexp_of_written hK
  obtain ⟨rk', e', hs', hw'⟩ := exec_kexp_of_written (s := u) (hkey ▸ hK)
  rw [hkey] at hs'
  refine ⟨_, _, e, e', fun i => hs.read_key, fun a ha => ⟨?_, hs.read_eq_read hs' ha ha⟩, fun hc hc' => ?_⟩
  · exact Option.isSome_of_eq_some (hs.read_eq_some ha)
  · exact hs.eq_of_wf hs' (hw hc) (hw' hc')

/-- Settles O46, on the ten bytes of the table; only the step from 0x80 to 0x1B needs the reducing byte. -/
theorem roundConstantsDouble : Obligations.RoundConstantsDouble :=
  ⟨rfl, rfl, by decide⟩

end Sys2Proof.Machine
end

section
/-! PROOF. The controller, one step at a time: the order of checks of a step (46_cipher_controller.md R170 to R174,
60_exceptions.md R209), the two commands (R171), LDS and OUT (R175, R176), and the round and phase view (R185). -/

namespace Sys2Proof.Machine

/-! ### The step, case by case -/

/-- A running controller that is not reset takes a micro-op step, whatever its ROM (R174). -/
theorem stepWith_of_running (rom : List Byte) {s : State} (hr : s.sample.rst = false) (hb : s.BUSY = true) :
    stepWith rom s = microStep rom s.advance := by
  simp [stepWith, hr, hb]

theorem microStep_of_ok {rom : List Byte} {s : State} {i : Instr} (h : decodeUop (fetch rom s.UPC) = .ok i) :
    microStep rom s = exec i s := by
  rw [microStep, h]

/-- Settles O10, by the fetch at the counter, which the port sample does not touch. -/
theorem stepRunsDecodedMicroOp : Obligations.StepRunsDecodedMicroOp := by
  have hok : ∀ (rom : List Byte) (s : State) (i : Instr), s.sample.rst = false → s.BUSY = true →
      decodeUop (fetch rom s.UPC) = .ok i → i.wf = true ∧ stepWith rom s = exec i s.advance :=
    fun rom s i hr hb hd =>
      ⟨(encode_of_decodeUop hd).2, (stepWith_of_running rom hr hb).trans (microStep_of_ok hd)⟩
  refine ⟨hok, hok uromImage, fun s e hr hb hd => ?_⟩
  exact (stepWith_of_running uromImage hr hb).trans (microStep_of_error ⟨e, hd⟩)

/-- Settles O11: the last two checks of a step. -/
theorem stepAcceptsRequestWhenIdle : Obligations.StepAcceptsRequestWhenIdle := by
  refine ⟨fun s hr hb hq => ?_, fun s => step_of_noRequest⟩
  simp [step, stepWith, hr, hb, hq]

/-- The step of a controller that is running or being reset sees nothing of the ports but `rst` (R173, R232). -/
theorem step_eq_of_advance_eq {s u : State} (hs : s.advance = u.advance) (hr : s.sample.rst = u.sample.rst)
    (h : s.BUSY = true ∨ s.sample.rst = true) : step s = step u := by
  cases hrst : s.sample.rst with
  | true => rw [step_of_rst hrst, step_of_rst (hr ▸ hrst), hs]
  | false =>
    have hbusy : s.BUSY = true := h.resolve_right (by simp [hrst])
    have hbusy' : u.BUSY = true := (congrArg State.BUSY hs).symm.trans hbusy
    rw [step, step, stepWith_of_running _ hrst hbusy, stepWith_of_running _ (hr ▸ hrst) hbusy', hs]

/-! ### The commands -/

theorem acceptRequest_of_busy (op : BitVec 1) (dl kl : Byte) (data key : Block) {s : State} (hb : s.BUSY = true) :
    acceptRequest op dl kl data key s = .next s := by
  rw [acceptRequest_eq, if_pos hb]

theorem acceptRequest_of_valid (op : BitVec 1) (data key : Block) {s : State} (hb : s.BUSY = false) :
    acceptRequest op 16 16 data key s = .next (s.accepted op data key) := by
  rw [acceptRequest_eq, if_neg (by simp [hb]), if_pos ((lengthsOk_iff 16 16).2 ⟨rfl, rfl⟩), State.accepted]

/-- The accept step with valid lengths (R171). -/
theorem step_of_valid_request {s : State} (hr : s.sample.rst = false) (hb : s.BUSY = false)
    (hq : s.sample.reqValid = true) (hd : s.sample.cmd.dataLen = 16) (hk : s.sample.cmd.keyLen = 16) :
    step s = .next
      (s.advance.accepted s.sample.cmd.op (unpackLanes s.sample.cmd.data) (unpackLanes s.sample.cmd.key)) := by
  rw [step_of_request hr hb hq, if_pos ((lengthsOk_iff _ _).2 ⟨hd, hk⟩)]

/-- Settles O15: the two states of the step differ in their port sample alone. -/
theorem busyIgnoresRequest : Obligations.BusyIgnoresRequest := by
  refine ⟨fun s p q rest hpq h => step_eq_of_advance_eq rfl hpq h, fun s dl kl data key hb => ⟨?_, ?_, ?_⟩⟩
  · exact congrArg Bool.not hb
  · exact acceptRequest_of_busy 0 dl kl data key hb
  · exact acceptRequest_of_busy 1 dl kl data key hb

/-- Settles O16: both commands are the accept step with their own `req_op`. -/
theorem commandsAcceptValidLengths : Obligations.CommandsAcceptValidLengths :=
  fun _ data key hb => ⟨acceptRequest_of_valid 0 data key hb, acceptRequest_of_valid 1 data key hb⟩

/-- Settles O17, with the lanes of the two ports. -/
theorem acceptStepValidLengths : Obligations.AcceptStepValidLengths :=
  fun _ hr hb hq hd hk => ⟨_, _, fun _ => getElem_unpackLanes _, fun _ => getElem_unpackLanes _,
    step_of_valid_request hr hb hq hd hk⟩

/-! ### LDS and OUT -/

theorem exec_lds_of_unwritten {s : State} (h : s.DIN.written = false) : exec .lds s = .fault .unwrittenRead := by
  show execLds s = _
  rw [execLds, (Store.read_eq_none_iff _).2 h]

theorem exec_out_of_unwritten {s : State} (h : s.S.written = false) : exec .out s = .fault .unwrittenRead := by
  show execOut s = _
  rw [execOut, (Store.read_eq_none_iff _).2 h]

/-- Settles O20: LDS writes the whole of DIN to `S`. -/
theorem ldsCopiesInput : Obligations.LdsCopiesInput := by
  refine ⟨rfl, fun s => ⟨fun h => ?_, exec_lds_of_unwritten⟩⟩
  exact ⟨_, (execLds_eq_next_iff s _).2 ⟨h, rfl⟩, rfl, rfl, fun _ _ => rfl⟩

/-- Settles O32: OUT writes the whole of `S` to DOUT and reports OK; a step with nothing to do leaves the output
registers. -/
theorem outDeliversResult : Obligations.OutDeliversResult := by
  refine ⟨rfl, fun s => ⟨fun h => ?_, exec_out_of_unwritten, fun hb hr hq => ?_⟩⟩
  · exact ⟨_, (execOut_eq_next_iff s _).2 ⟨h, rfl⟩, rfl, rfl, fun _ _ => rfl, rfl⟩
  · exact ⟨_, step_of_noRequest hr hb hq, rfl⟩

/-! ### The round and phase view -/

/-- The rounds and phases of an encryption go through its listing from ARK 0 to OUT (R177, R185). -/
theorem roundPhaseInstr_encrypt : ∀ k < 39, roundPhaseInstr (0x03 + k) = encryptListing[3 + k]? := by decide

/-- The rounds of a decryption count down through its listing from ARK 10 to OUT (R178, R185). -/
theorem roundPhaseInstr_decrypt : ∀ k < 39, roundPhaseInstr (0x43 + k) = decryptListing[3 + k]? := by decide

/-- Settles O6: the view and the ROM both follow the two listings. -/
theorem roundPhaseViewAgrees : Obligations.RoundPhaseViewAgrees := by
  rintro a (⟨hlo, hhi⟩ | ⟨hlo, hhi⟩)
  · obtain ⟨k, rfl⟩ := Nat.exists_eq_add_of_le hlo
    obtain ⟨i, hl, hd⟩ := exists_decodeUop_encrypt (a := 3 + k) (by omega)
    rw [roundPhaseInstr_encrypt k (by omega), hl, hd]
    exact ⟨rfl, rfl⟩
  · obtain ⟨k, rfl⟩ := Nat.exists_eq_add_of_le hlo
    obtain ⟨i, hl, hd⟩ := exists_decodeUop_decrypt (a := 3 + k) (by omega)
    rw [← Nat.add_assoc] at hd
    rw [roundPhaseInstr_decrypt k (by omega), hl, hd]
    exact ⟨rfl, rfl⟩

end Sys2Proof.Machine
end

section
/-! PROOF. The two ciphers as lists of round operations: each list is the part of its micro-program between KEXP and OUT
(46_cipher_controller.md R177, R178, R180, R181), and the decryption's is the encryption's undone from its end, which is
the round trip (R183). -/

namespace Sys2Proof.Machine

/-! ### Round operations as functions on blocks -/

/-- What a round operation makes of the working state under a key (R180, R181); LDS, KEXP, OUT and the commands are no
round operations and leave the block alone. -/
def roundOpBlock (key : Block) (b : Block) : Instr → Block
  | .ark r => xorBytes b (roundKey key r.toNat)
  | .sub => subBytes b
  | .shr => shiftRows b
  | .mix => mixColumns b
  | .isub => invSubBytes b
  | .ishr => invShiftRows b
  | .imix => invMixColumns b
  | .lds | .kexp | .out => b
  | .encrypt _ _ _ _ | .decrypt _ _ _ _ => b

/-- A round operation with the schedule of a key in RK writes what `roundOpBlock` says to `S`. -/
theorem roundOpBlock_of_exec {i : Instr} {s t : State} {key : Block} (hi : isRoundOp i = true)
    (hR : HoldsSchedule s.RK key 44) (h : exec i s = .next t) :
    t.S.bytes = roundOpBlock key s.S.bytes i := by
  cases i with
  | lds | kexp | out | encrypt | decrypt => cases hi
  | sub | shr | mix | isub | ishr | imix =>
    obtain ⟨_, rfl⟩ := (transform_eq_next_iff _ s t).1 h
    rfl
  | ark r =>
    obtain ⟨hr, k, hk, _, rfl⟩ := (execArk_eq_next_iff r s t).1 h
    cases hk.symm.trans (hR.readRoundKey ((legalRound_iff r).1 hr))
    rfl

/-! ### The two ciphers -/

/-- The micro-ops of an encryption between KEXP and OUT (R95, R177). -/
def encryptOps : List Instr := [.ark 0] ++ [1, 2, 3, 4, 5, 6, 7, 8, 9].flatMap roundOps ++ finalOps

/-- The micro-ops of a decryption between KEXP and OUT (R95, R178). -/
def decryptOps : List Instr := [.ark 10] ++ [9, 8, 7, 6, 5, 4, 3, 2, 1].flatMap iroundOps ++ ifinalOps

/-- `Encrypt` is its round operations in order (R180). -/
theorem foldl_encryptOps (p key : Block) : encryptOps.foldl (roundOpBlock key) p = encryptBlock p key := rfl

/-- `Decrypt` is its round operations in order (R181). -/
theorem foldl_decryptOps (c key : Block) : decryptOps.foldl (roundOpBlock key) c = decryptBlock c key := rfl

/-- The micro-op that undoes a round operation (R126, R133, R144); ARK undoes itself (R151). -/
def undoOp : Instr → Instr
  | .sub => .isub
  | .isub => .sub
  | .shr => .ishr
  | .ishr => .shr
  | .mix => .imix
  | .imix => .mix
  | i => i

/-- The rounds of a decryption undo those of an encryption, last first: each `ARK; IMIX` of the one undoes a
`MIX; ARK` of the other with the same round key (R183). -/
theorem decryptOps_eq_undo : decryptOps = encryptOps.reverse.map undoOp := by decide

theorem encryptOps_eq_undo : encryptOps = decryptOps.reverse.map undoOp := by decide

theorem roundOpBlock_undoOp (key b : Block) (i : Instr) :
    roundOpBlock key (roundOpBlock key b i) (undoOp i) = b := by
  cases i with
  | sub => exact invSubBytes_subBytes b
  | isub => exact subBytes_invSubBytes b
  | shr => exact invShiftRows_shiftRows b
  | ishr => exact shiftRows_invShiftRows b
  | mix => exact invMixColumns_mixColumns b
  | imix => exact mixColumns_invMixColumns b
  | ark r => exact xorBytes_xorBytes_cancel b _
  | lds | kexp | out | encrypt | decrypt => rfl

/-- Operations undone from the last to the first give back the block. -/
theorem foldl_reverse_undoOp (key : Block) (is : List Instr) : ∀ b : Block,
    (is.reverse.map undoOp).foldl (roundOpBlock key) (is.foldl (roundOpBlock key) b) = b := by
  induction is with
  | nil => exact fun _ => rfl
  | cons i is ih =>
    intro b
    rw [List.reverse_cons, List.map_append, List.foldl_append, List.foldl_cons, ih]
    exact roundOpBlock_undoOp key b i

/-- Settles O52: each cipher's round operations are the other's undone in the opposite order. -/
theorem cipherRoundTrip : Obligations.CipherRoundTrip := by
  intro p key
  constructor
  · rw [← foldl_decryptOps, ← foldl_encryptOps, decryptOps_eq_undo, foldl_reverse_undoOp]
  · rw [← foldl_decryptOps, ← foldl_encryptOps, encryptOps_eq_undo, foldl_reverse_undoOp]

end Sys2Proof.Machine
end

section
/-! PROOF. A command from its accept step to OUT: 43 micro-ops at consecutive addresses, whose round operations leave
`Encrypt` or `Decrypt` of the request in `S` (46_cipher_controller.md R171, R174, R182, R184, R186, R190). -/

namespace Sys2Proof.Machine

/-! ### The program of a command -/

/-- The micro-ops between KEXP and OUT of the program `OP` selects. -/
def programOps (op : BitVec 1) : List Instr := if op = 0 then encryptOps else decryptOps

/-- The program `OP` selects (R177, R178). -/
def programListing (op : BitVec 1) : List Instr := [.lds, .kexp] ++ programOps op ++ [.out]

theorem programListing_zero : programListing 0 = encryptListing := rfl
theorem programListing_one : programListing 1 = decryptListing := rfl

/-- The block a command delivers (R180, R181). -/
def cipherBlock (op : BitVec 1) (data key : Block) : Block :=
  if op = 0 then encryptBlock data key else decryptBlock data key

/-- `UROM` holds the program of a command from its start address on. -/
theorem exists_decodeUop_program (op : BitVec 1) {a : Nat} (ha : a < 43) :
    ∃ i, (programListing op)[a]? = some i ∧ decodeUop (uromImage.getD (64 * op.toNat + a) 0) = .ok i := by
  have hop : op = 0 ∨ op = 1 := by revert op; decide
  rcases hop with rfl | rfl
  · rw [programListing_zero, show 64 * (0 : BitVec 1).toNat + a = a from Nat.zero_add a]
    exact exists_decodeUop_encrypt ha
  · rw [programListing_one]
    exact exists_decodeUop_decrypt ha

/-- The micro-ops of a program before OUT make `Encrypt` or `Decrypt` of a block (R182). -/
theorem foldl_program_before_out (op : BitVec 1) (data key : Block) :
    ((programListing op).take 42).foldl (roundOpBlock key) data = cipherBlock op data key := by
  have htake : ∀ op, (programListing op).take 42 = [.lds, .kexp] ++ programOps op := by decide
  rw [htake, List.foldl_append, programOps, cipherBlock]
  split
  · exact foldl_encryptOps data key
  · exact foldl_decryptOps data key

/-! ### A command in progress -/

/-- What a command in progress has computed so far: from LDS on `S` holds its input put through the micro-ops
executed, and from KEXP on RK holds the schedule of its key. -/
structure State.Computes (s : State) : Prop where
  working : 1 ≤ s.offset →
    s.S.bytes = ((programListing s.OP).take s.offset).foldl (roundOpBlock s.K.bytes) s.DIN.bytes
  schedule : 2 ≤ s.offset → HoldsSchedule s.RK s.K.bytes 44

/-- `u` is the state of the same command in progress `j` micro-ops after `s`. -/
structure State.Later (s : State) (j : Nat) (u : State) : Prop where
  inRun : u.InRun
  busy : u.BUSY = true
  offset : u.offset = s.offset + j
  op : u.OP = s.OP
  din : u.DIN = s.DIN
  key : u.K = s.K
  inputs : u.inputs = s.inputs.drop j
  computes : s.Computes → u.Computes

theorem State.Later.refl {s : State} (h : s.InRun) (hb : s.BUSY = true) : s.Later 0 s :=
  ⟨h, hb, rfl, rfl, rfl, rfl, rfl, id⟩

theorem State.Later.trans {s t u : State} {j k : Nat} (h : s.Later j t) (h' : t.Later k u) :
    s.Later (j + k) u where
  inRun := h'.inRun
  busy := h'.busy
  offset := by rw [h'.offset, h.offset, Nat.add_assoc]
  op := h'.op.trans h.op
  din := h'.din.trans h.din
  key := h'.key.trans h.key
  inputs := by rw [h'.inputs, h.inputs, List.drop_drop]
  computes := h'.computes ∘ h.computes

/-- The counter of a command in progress, from its start address on. -/
theorem State.InRun.upc_toNat {s : State} (h : s.InRun) : s.UPC.toNat = 64 * s.OP.toNat + s.offset := by
  have hstart := h.fromStart
  rw [startAddr_toNat] at hstart
  rw [State.offset, startAddr_toNat]
  omega

theorem State.InRun.upc_eq {s : State} (h : s.InRun) : s.UPC = startAddr s.OP + BitVec.ofNat 7 s.offset := by
  have hstart := h.fromStart
  rw [State.offset]
  bv_omega

theorem State.InRun.offset_le {s : State} (h : s.InRun) : s.offset ≤ 42 := by
  have hout := h.toOut
  rw [State.offset]
  omega

theorem State.quiet_of_inputs_drop {s u : State} {j k : Nat} (e : u.inputs = s.inputs.drop j)
    (h : s.quiet (j + k)) : u.quiet k := by
  intro i hi
  have hs := h (j + i) (by omega)
  simpa [State.sampleAt, e, List.getD_eq_getElem?_getD] using hs

/-- The next micro-op of a program extends what the ones before it made of the block. -/
theorem foldl_take_succ {α β : Type} {l : List α} {n : Nat} {a : α} (h : l[n]? = some a) (f : β → α → β) (b : β) :
    (l.take (n + 1)).foldl f b = f ((l.take n).foldl f b) a := by
  rw [List.take_add_one, h, Option.toList_some, List.foldl_append, List.foldl_cons, List.foldl_nil]

/-- The micro-op a command in progress fetches is the one of its listing. -/
theorem State.InRun.getElem?_program {s : State} (h : s.InRun) {i : Instr}
    (hd : decodeUop (fetch uromImage s.UPC) = .ok i) : (programListing s.OP)[s.offset]? = some i := by
  obtain ⟨i', hl, hd'⟩ := exists_decodeUop_program s.OP (Nat.lt_succ_of_le h.offset_le)
  rw [fetch, h.upc_toNat, hd'] at hd
  cases hd
  exact hl

/-- A micro-op before OUT leads to the next state of the same command. -/
theorem State.InRun.exists_step {s : State} (h : s.InRun) (hb : s.BUSY = true) (hr : s.sample.rst = false)
    (ho : s.offset < 42) : ∃ t, step s = .next t ∧ s.Later 1 t := by
  have hinputs : s.advance.inputs = s.inputs.drop 1 := by simp
  rcases step_of_inRun h hb hr with
    ⟨ho, e⟩ | ⟨ho, rk, e, hk, _⟩ | ⟨ho2, _, i, b, hd, hi, he, e⟩ | ⟨ho42, _⟩
  -- LDS writes the input block to `S`.
  · obtain ⟨hrun, hoff⟩ := h.writeS (by omega) (by omega) s.DIN.bytes
    refine ⟨_, e, hrun, hb, hoff, rfl, rfl, rfl, hinputs, fun hc => ⟨fun _ => ?_, fun h2 => by omega⟩⟩
    rw [hoff, ho]
    rfl
  -- KEXP leaves `S` and writes the schedule.
  · obtain ⟨hrun, hoff⟩ := h.writeRK ho hk.covers
    refine ⟨_, e, hrun, hb, hoff, rfl, rfl, rfl, hinputs, fun hc => ⟨fun _ => ?_, fun _ => hk⟩⟩
    have hS := hc.working (by omega)
    rw [ho] at hS
    rw [hoff, ho]
    exact hS
  -- A round operation extends the fold over the listing by itself.
  · obtain ⟨hrun, hoff⟩ := h.writeS (by omega) (by omega) b
    refine ⟨_, e, hrun, hb, hoff, rfl, rfl, rfl, hinputs, fun hc => ⟨fun _ => ?_, fun _ => hc.schedule ho2⟩⟩
    have hS := roundOpBlock_of_exec (s := s.advance) hi (hc.schedule ho2) he
    rw [hS, hoff]
    exact (congrArg (roundOpBlock s.K.bytes · i) (hc.working (by omega))).trans
      (foldl_take_succ (h.getElem?_program hd) _ _).symm
  · omega

/-- The last micro-op of a command is OUT. -/
theorem State.InRun.step_out {s : State} (h : s.InRun) (hb : s.BUSY = true) (hr : s.sample.rst = false)
    (ho : s.offset = 42) : step s = .next (s.advance.writeDOUT s.S.bytes).markDone := by
  rcases step_of_inRun h hb hr with ⟨ho', _⟩ | ⟨ho', _⟩ | ⟨_, ho', _⟩ | ⟨_, e⟩
  · omega
  · omega
  · omega
  · exact e

/-! ### Runs -/

/-- A run goes on from where its first `j` steps have led. -/
theorem run_add_of_run {j : Nat} (k : Nat) : ∀ {s t : State}, run j s = .next t → run (j + k) s = run k t := by
  induction j with
  | zero =>
    intro s t h
    cases h
    rw [Nat.zero_add]
  | succ j ih =>
    intro s t h
    rw [Nat.add_right_comm]
    cases hs : step s with
    | next u =>
      rw [run_succ_of_next hs] at h ⊢
      exact ih h
    | fault f => simp [run, hs] at h
    | refused r => simp [run, hs] at h

/-- As long as OUT is not reached, every step is the next micro-op of the command. -/
theorem State.InRun.exists_run (j : Nat) : ∀ {s : State}, s.InRun → s.BUSY = true → s.quiet j →
    s.offset + j ≤ 42 → ∃ u, run j s = .next u ∧ s.Later j u := by
  induction j with
  | zero => exact fun h hb _ _ => ⟨_, rfl, .refl h hb⟩
  | succ j ih =>
    intro s h hb hq ho
    obtain ⟨t, e, ht⟩ := h.exists_step hb (State.quiet_succ hq).1 (by omega)
    rw [Nat.add_comm] at hq
    obtain ⟨u, e', hu⟩ := ih ht.inRun ht.busy (State.quiet_of_inputs_drop ht.inputs hq) (by rw [ht.offset]; omega)
    rw [run_succ_of_next e, Nat.add_comm]
    exact ⟨u, e', ht.trans hu⟩

/-- A command that is not reset reaches its OUT, which delivers `S`. -/
theorem State.InRun.exists_run_out {s : State} (h : s.InRun) (hb : s.BUSY = true)
    (hq : s.quiet (43 - s.offset)) :
    ∃ u, s.Later (42 - s.offset) u ∧
      run (43 - s.offset) s = .next (u.advance.writeDOUT u.S.bytes).markDone := by
  have ho := h.offset_le
  rw [show 43 - s.offset = 42 - s.offset + 1 by omega] at hq ⊢
  obtain ⟨u, e, hu⟩ := h.exists_run (42 - s.offset) hb (fun i hi => hq i (by omega)) (by omega)
  have hr : u.sample.rst = false := (State.quiet_succ (State.quiet_of_inputs_drop hu.inputs hq)).1
  have hout := hu.inRun.step_out hu.busy hr (by rw [hu.offset]; omega)
  exact ⟨u, hu, (run_add_of_run 1 e).trans (run_succ_of_next hout)⟩

@[simp] theorem State.accepted_inputs (s : State) (op : BitVec 1) (data key : Block) :
    (s.accepted op data key).inputs = s.inputs := rfl

/-- A command just accepted has computed nothing yet. -/
theorem State.accepted_computes (s : State) (op : BitVec 1) (data key : Block) : (s.accepted op data key).Computes where
  working h := by simp at h
  schedule h := by simp at h

/-- A command just accepted delivers its block in 43 micro-ops (R182, R184). -/
theorem exists_run_of_accepted {s : State} (hq : s.quiet 43) (op : BitVec 1) (data key : Block) :
    ∃ u, (s.accepted op data key).Later 42 u ∧
      run 43 (s.accepted op data key) = .next (u.advance.writeDOUT (cipherBlock op data key)).markDone := by
  have hrun := s.accepted_inRun op data key
  have hquiet : (s.accepted op data key).quiet 43 := State.quiet_of_inputs_eq rfl hq
  obtain ⟨u, hu, e⟩ := hrun.exists_run_out rfl (by simpa using hquiet)
  rw [State.accepted_offset] at hu e
  have hoff : u.offset = 42 := hu.offset.trans (by simp)
  have hS := (hu.computes (s.accepted_computes op data key)).working (by omega)
  rw [hoff, hu.op, hu.din, hu.key] at hS
  have hblock : u.S.bytes = cipherBlock op data key := hS.trans (foldl_program_before_out op data key)
  exact ⟨u, hu, hblock ▸ e⟩

/-- The accept step and the 43 micro-ops after it, from an idle state of any contents (R186). -/
theorem exists_run_of_valid_request {s : State} {op : BitVec 1} (hop : s.sample.cmd.op = op) (hb : s.BUSY = false)
    (hq : s.quiet 44) (hv : s.sample.reqValid = true) (hd : s.sample.cmd.dataLen = 16)
    (hk : s.sample.cmd.keyLen = 16) :
    ∃ t, run 44 s = .next t ∧
      t.DOUT = Store.put (cipherBlock op (unpackLanes s.sample.cmd.data) (unpackLanes s.sample.cmd.key)) ∧
      t.DIN = Store.put (unpackLanes s.sample.cmd.data) ∧ t.K = Store.put (unpackLanes s.sample.cmd.key) ∧
      t.OP = op ∧ t.UPC = startAddr op + 42 ∧ t.BUSY = false ∧ t.RSP_VALID = true ∧ t.RSP_STATUS = statusOk ∧
      t.inputs = s.inputs.drop 44 := by
  subst hop
  obtain ⟨hr, hq⟩ := State.quiet_succ hq
  obtain ⟨u, hu, e⟩ := exists_run_of_accepted hq s.sample.cmd.op (unpackLanes s.sample.cmd.data)
    (unpackLanes s.sample.cmd.key)
  refine ⟨_, (run_succ_of_next (step_of_valid_request hr hb hv hd hk)).trans e, rfl, hu.din, hu.key, hu.op, ?_,
    rfl, rfl, rfl, ?_⟩
  · have hoff : u.offset = 42 := hu.offset.trans (by simp)
    have hupc := hu.inRun.upc_eq
    rwa [hu.op, hoff] at hupc
  · simp [hu.inputs]

/-! ### The statements -/

/-- Settles O56: every step before OUT is the next micro-op of the command, and OUT ends it. -/
theorem runsEndAtOut : Obligations.RunsEndAtOut := by
  intro s h hb hq
  refine ⟨fun j hj => ?_, ?_⟩
  · obtain ⟨u, e, hu⟩ := h.exists_run j hb (fun i hi => hq i (by omega)) (by omega)
    refine ⟨u, e, hu.busy, hu.inRun.silent, ?_⟩
    rw [hu.inRun.upc_toNat, h.upc_toNat, hu.op, hu.offset, Nat.add_assoc]
  · obtain ⟨u, hu, e⟩ := h.exists_run_out hb hq
    refine ⟨_, e, rfl, rfl, rfl, hu.op, ?_⟩
    have hle := h.offset_le
    show u.UPC.toNat = _
    rw [hu.inRun.upc_toNat, startAddr_toNat, hu.op, hu.offset]
    omega

/-- Settles O57, for `req_op` 0. -/
theorem encryptRunDelivers : Obligations.EncryptRunDelivers :=
  fun _ hb hq hv hop hd hk => exists_run_of_valid_request hop hb hq hv hd hk

/-- Settles O58, for `req_op` 1. -/
theorem decryptRunDelivers : Obligations.DecryptRunDelivers :=
  fun _ hb hq hv hop hd hk => exists_run_of_valid_request hop hb hq hv hd hk

/-- The response to a request with valid lengths is the block of its command (R190). -/
theorem respond_of_valid {c : Cmd} (h : c.dataLen = 16 ∧ c.keyLen = 16) :
    respond c = .ok (cipherBlock c.op (unpackLanes c.data) (unpackLanes c.key)) := by
  rw [respond, Config.requiredLength, if_pos h, cipherBlock]
  split <;> rfl

/-- The response to any other request is the error (R201). -/
theorem respond_of_invalid {c : Cmd} (h : ¬(c.dataLen = 16 ∧ c.keyLen = 16)) : respond c = .err .invalidLength :=
  if_neg h

/-- A response OK shows `DOUT`. -/
theorem responseOf_of_ok {s : State} {b : Block} (hv : s.RSP_VALID = true) (hs : s.RSP_STATUS = statusOk)
    (hd : s.DOUT = Store.put b) : responseOf s = some (.ok b) := by
  simp [responseOf, hv, hs, hd, statusOk]

/-- Settles O59: the run of a request with valid lengths delivers its block, and the accept step refuses any other. -/
theorem responseIsAFunctionOfTheRequest : Obligations.ResponseIsAFunctionOfTheRequest := by
  intro s k hb hv hk hq
  by_cases hl : s.sample.cmd.dataLen = 16 ∧ s.sample.cmd.keyLen = 16
  · rw [if_pos hl] at hk
    subst hk
    obtain ⟨t, e, hdout, _, _, _, _, hbusy, hvalid, hstatus, _⟩ :=
      exists_run_of_valid_request rfl hb hq hv hl.1 hl.2
    rw [respond_of_valid hl]
    exact ⟨t, e, hbusy, responseOf_of_ok hvalid hstatus hdout⟩
  · rw [if_neg hl] at hk
    subst hk
    have e := step_of_request (State.quiet_succ hq).1 hb hv
    rw [if_neg fun h => hl ((lengthsOk_iff _ _).1 h)] at e
    rw [respond_of_invalid hl]
    exact ⟨_, run_succ_of_next e, hb, rfl⟩

end Sys2Proof.Machine
end

section
/-! PROOF. The exceptions of 60_exceptions.md: the refusal of a request with a wrong length (R201 to R203), and the two
model faults, which are all that stops an instruction (R200, R206, R207). -/

namespace Sys2Proof.Machine

/-! ### The refused request -/

/-- One wrong length is enough for a refusal (R201). -/
theorem not_lengthsOk_of_ne {dl kl : Byte} (h : dl ≠ 16 ∨ kl ≠ 16) : ¬lengthsOk dl kl = true :=
  fun hl => not_and_or.2 h ((lengthsOk_iff dl kl).1 hl)

theorem acceptRequest_of_invalid (op : BitVec 1) {dl kl : Byte} (data key : Block) {s : State}
    (hb : s.BUSY = false) (h : dl ≠ 16 ∨ kl ≠ 16) :
    acceptRequest op dl kl data key s = .next (raiseInvalidLength s) := by
  rw [acceptRequest_eq, if_neg (by simp [hb]), if_neg (not_lengthsOk_of_ne h)]

/-- The accept step with a wrong length (R202). -/
theorem step_of_invalid_request {s : State} (hr : s.sample.rst = false) (hb : s.BUSY = false)
    (hq : s.sample.reqValid = true) (h : s.sample.cmd.dataLen ≠ 16 ∨ s.sample.cmd.keyLen ≠ 16) :
    step s = .next (raiseInvalidLength s.advance) := by
  rw [step_of_request hr hb hq, if_neg (not_lengthsOk_of_ne h)]

/-- The ports after a refusal: ready again, with an error response and no data (R36, R202). -/
theorem outputsOf_raiseInvalidLength {s : State} (hb : s.BUSY = false) :
    outputsOf (raiseInvalidLength s) = ⟨true, true, 1, 0⟩ := by
  have hdata : rspDataOf (raiseInvalidLength s) = 0 := if_neg (by simp [statusInvalidLength, statusOk])
  rw [outputsOf, hdata, raiseInvalidLength_BUSY, hb]
  rfl

/-- Settles O18: the request is refused on the state whose port sample is used up. -/
theorem acceptStepInvalidLength : Obligations.AcceptStepInvalidLength :=
  fun s hr hb hq h => ⟨_, step_of_invalid_request hr hb hq h, rfl, outputsOf_raiseInvalidLength (s := s.advance) hb⟩

/-- Settles O19: both commands are the same request but for `req_op`, which a refusal does not look at. -/
theorem commandsRefuseWrongLengths : Obligations.CommandsRefuseWrongLengths :=
  fun _ _ _ data key hb h => ⟨acceptRequest_of_invalid 0 data key hb h, acceptRequest_of_invalid 1 data key hb h⟩

/-! ### The two model faults -/

/-- An instruction without an illegal operand reads a byte that nothing has written since reset (R207): the stores each
micro-op reads. A command reads none. -/
def ReadsUnwritten (s : State) : Instr → Prop
  | .lds => s.DIN.written = false
  | .kexp => s.K.written = false
  | .ark r => r.toNat ≤ 10 ∧ (s.S.written = false ∨ ∃ j, j < 16 ∧ s.RK.read (16 * r.toNat + j) = none)
  | .sub | .shr | .mix | .out | .isub | .ishr | .imix => s.S.written = false
  | .encrypt _ _ _ _ | .decrypt _ _ _ _ => False

/-- The same as a list of cases, as R200 gives it. -/
theorem readsUnwritten_iff (s : State) (i : Instr) :
    ReadsUnwritten s i ↔
      (i = .lds ∧ s.DIN.written = false) ∨
      (i = .kexp ∧ s.K.written = false) ∨
      (i ∈ [Instr.sub, .shr, .mix, .isub, .ishr, .imix, .out] ∧ s.S.written = false) ∨
      (∃ r : BitVec 4, i = .ark r ∧ r.toNat ≤ 10 ∧
        (s.S.written = false ∨ ∃ j, j < 16 ∧ s.RK.read (16 * r.toNat + j) = none)) := by
  cases i <;> simp [ReadsUnwritten]

/-- Reading an unwritten byte stops an instruction, whichever it is (R207). -/
theorem exec_of_readsUnwritten {s : State} {i : Instr} (h : ReadsUnwritten s i) :
    exec i s = .fault .unwrittenRead := by
  cases i with
  | lds => exact exec_lds_of_unwritten h
  | kexp => exact exec_kexp_of_unwritten h
  | out => exact exec_out_of_unwritten h
  | sub | shr | mix | isub | ishr | imix => exact transform_of_unwritten _ h
  | ark r =>
    obtain ⟨hr, hread⟩ := h
    exact exec_ark_of_unreadable hr (hread.imp_right fun ⟨_, hj, hb⟩ => Memory.readVec_eq_none_of_read hj hb)
  | encrypt | decrypt => exact h.elim

/-- A legal ARK completes when all it reads is written. -/
theorem exists_exec_ark {s : State} {r : BitVec 4} (hr : r.toNat ≤ 10) (h : ¬ReadsUnwritten s (.ark r)) :
    ∃ t, exec (.ark r) s = .next t := by
  obtain ⟨hS, hRK⟩ := not_or.1 fun hread => h ⟨hr, hread⟩
  have hc : s.RK.covers (16 * r.toNat) 16 = true :=
    (Memory.covers_iff s.RK _ _).2 fun j hj => Option.isSome_iff_ne_none.2 fun hb => hRK ⟨j, hj, hb⟩
  obtain ⟨k, hk⟩ := Memory.exists_readVec hc
  exact ⟨_, exec_ark_of_readable hr hk (Bool.eq_true_of_not_eq_false hS)⟩

/-- An instruction that reads nothing unwritten completes, unless it is an ARK with a number above 10. -/
theorem exists_exec_of_not_readsUnwritten {s : State} {i : Instr} (h : ¬ReadsUnwritten s i)
    (hi : ¬∃ r : BitVec 4, i = .ark r ∧ 10 < r.toNat) : ∃ t, exec i s = .next t := by
  cases i with
  | lds => exact ⟨_, (execLds_eq_next_iff s _).2 ⟨Bool.eq_true_of_not_eq_false h, rfl⟩⟩
  | kexp =>
    obtain ⟨_, e, _⟩ := exec_kexp_of_written (Bool.eq_true_of_not_eq_false h)
    exact ⟨_, e⟩
  | out => exact ⟨_, (execOut_eq_next_iff s _).2 ⟨Bool.eq_true_of_not_eq_false h, rfl⟩⟩
  | sub | shr | mix | isub | ishr | imix =>
    exact ⟨_, transform_of_written _ (Bool.eq_true_of_not_eq_false h)⟩
  | ark r => exact exists_exec_ark (Nat.le_of_not_lt fun hr => hi ⟨r, rfl, hr⟩) h
  | encrypt dl kl data key => exact ⟨_, acceptRequest_eq 0 dl kl data key s⟩
  | decrypt dl kl data key => exact ⟨_, acceptRequest_eq 1 dl kl data key s⟩

/-- All an instruction can answer: each fault for its own reason, or a next state (R200). -/
theorem exec_outcome_cases (i : Instr) (s : State) :
    ((∃ r : BitVec 4, i = .ark r ∧ 10 < r.toNat) ∧ exec i s = .fault .illegalUop) ∨
    (ReadsUnwritten s i ∧ exec i s = .fault .unwrittenRead) ∨
    (∃ t, exec i s = .next t) := by
  by_cases hi : ∃ r : BitVec 4, i = .ark r ∧ 10 < r.toNat
  · obtain ⟨r, rfl, hr⟩ := hi
    exact .inl ⟨⟨r, rfl, hr⟩, exec_ark_of_gt hr⟩
  · by_cases h : ReadsUnwritten s i
    · exact .inr (.inl ⟨h, exec_of_readsUnwritten h⟩)
    · exact .inr (.inr (exists_exec_of_not_readsUnwritten h hi))

/-- Settles O33: among all an instruction can answer, each fault stands beside its own reason, and no refusal stands
there. -/
theorem stopsOnlyWhereTheRulesSay : Obligations.StopsOnlyWhereTheRulesSay := by
  intro i s
  have hcases := exec_outcome_cases i s
  rw [← readsUnwritten_iff]
  refine ⟨⟨fun h => ?_, fun ⟨_, hi, hr⟩ => hi ▸ exec_ark_of_gt hr⟩, ⟨fun h => ?_, exec_of_readsUnwritten⟩,
    fun x h => ?_⟩
  · simpa [h] using hcases
  · simpa [h] using hcases
  · simp [h] at hcases

end Sys2Proof.Machine
end

section
/-! PROOF. The reset step (R231) and what it leaves behind: no command and no response until a request comes (R232). -/

namespace Sys2Proof.Machine

/-! ### The reset step -/

/-- The ports after a reset: ready, with no response and no data (R36, R231). -/
theorem outputsOf_resetStep (s : State) : outputsOf (resetStep s) = ⟨true, false, 0, 0⟩ := rfl

/-- A reset right after a reset finds nothing left to clear (R231). -/
theorem resetStep_advance_resetStep (s : State) : resetStep (resetStep s).advance = (resetStep s).advance := rfl

/-- Settles O12, field by field; the second reset step only uses up its port sample. -/
theorem resetStepEffect : Obligations.ResetStepEffect := by
  intro s hr
  have hagain (hr' : (resetStep s.advance).sample.rst = true) :
      step (resetStep s.advance) = .next (resetStep s.advance).advance := by
    rw [step_of_rst hr', resetStep_advance_resetStep]
  exact ⟨_, step_of_rst hr, rfl, rfl, rfl, rfl, rfl, rfl, rfl, rfl, rfl, fun _ => rfl,
    outputsOf_resetStep s.advance, rfl, hagain⟩

/-! ### Waiting for a request -/

/-- No command is being executed and no response is shown (R28, R29). -/
structure State.Waiting (s : State) : Prop where
  idle : s.BUSY = false
  silent : s.RSP_VALID = false

theorem resetStep_waiting (s : State) : (resetStep s).Waiting := ⟨rfl, rfl⟩

theorem State.Waiting.responseOf_eq_none {s : State} (h : s.Waiting) : responseOf s = none := by
  simp [responseOf, h.silent]

theorem State.sampleAt_zero (s : State) : s.sampleAt 0 = s.sample := by
  cases h : s.inputs <;> simp [State.sampleAt, State.sample, h]

/-- A step that has used up its port sample sees the later ones one place nearer (log 3). -/
theorem sampleAt_of_inputs_tail {s t : State} (e : t.inputs = s.inputs.tail) (i : Nat) :
    t.sampleAt i = s.sampleAt (i + 1) := by
  simp [State.sampleAt, e, List.getD_eq_getElem?_getD]

/-- Without a request, a waiting controller goes on waiting, whether it is reset or not (R231, R233). -/
theorem State.Waiting.exists_step {s : State} (h : s.Waiting) (hq : s.sample.reqValid = false) :
    ∃ t, step s = .next t ∧ t.Waiting ∧ t.inputs = s.inputs.tail := by
  cases hr : s.sample.rst with
  | true => exact ⟨_, step_of_rst hr, resetStep_waiting _, rfl⟩
  | false => exact ⟨_, step_of_noRequest hr h.idle hq, ⟨h.idle, h.silent⟩, rfl⟩

/-- A controller waits for as long as no request comes. -/
theorem State.Waiting.exists_run (k : Nat) : ∀ {s : State}, s.Waiting →
    (∀ i, i < k → (s.sampleAt i).reqValid = false) → ∃ t, run k s = .next t ∧ t.Waiting := by
  induction k with
  | zero => exact fun {s} h _ => ⟨s, rfl, h⟩
  | succ k ih =>
    intro s h hq
    obtain ⟨u, e, hu, hinputs⟩ := h.exists_step (s.sampleAt_zero ▸ hq 0 k.succ_pos)
    rw [run_succ_of_next e]
    exact ih hu fun i hi => sampleAt_of_inputs_tail hinputs i ▸ hq (i + 1) (Nat.succ_lt_succ hi)

/-- Settles O14: the reset step leaves the controller waiting, and it waits until a request comes. -/
theorem resetAbandonsCommand : Obligations.ResetAbandonsCommand := by
  intro k s hr hq
  have hsample : ∀ i, (resetStep s.advance).sampleAt i = s.sampleAt (i + 1) := sampleAt_of_inputs_tail rfl
  have hlater : ∀ i, i < k → ((resetStep s.advance).sampleAt i).reqValid = false :=
    fun i hi => hsample i ▸ hq (i + 1) i.succ_pos hi
  obtain ⟨t, e, ht⟩ := (resetStep_waiting s.advance).exists_run k hlater
  exact ⟨t, (run_succ_of_next (step_of_rst hr)).trans e, ht.idle, ht.responseOf_eq_none⟩

end Sys2Proof.Machine
end
